-- ==== Sys2Proof/Machine/Status.lean ====
section
/-! DEFINITION. The status register's live bits, a type of its own because both the state and the parameter `RESET_STATE`
hold one. -/

namespace Sys2Proof.Machine

/-- The live bits of SR (10_state.md R28). Bits 31 to 5 are hardwired zero (R31), so they are not held;
`Status.toWord` and `Status.ofWord` give the 32-bit view MOVE reads and writes. -/
structure Status where
  /-- Bit 4, Global Interrupt Enable. -/
  gie : Bool
  /-- Bit 3, Negative. -/
  n : Bool
  /-- Bit 2, Zero. -/
  z : Bool
  /-- Bit 1, Overflow. -/
  v : Bool
  /-- Bit 0, Carry. -/
  c : Bool
  deriving DecidableEq, Repr

end Sys2Proof.Machine
end

