-- ==== Sys2Proof/Word.lean ====
section
/-! DEFINITION. The machine's units of data (20_memory.md R50, 10_state.md R20, 30_encoding.md R86)
and their sizes. -/

namespace Sys2Proof

/-- A 32-bit word, "primary data unit" (R50). -/
abbrev Word := BitVec 32

/-- An 8-bit byte, the addressable unit (R50). -/
abbrev Byte := BitVec 8

/-- The one immediate field, `ir[19:0]` (R86). -/
abbrev Imm20 := BitVec 20

/-- The three data widths of R50. -/
inductive Width where
  | byte
  | half
  | word
  deriving DecidableEq, Repr

/-- How many bytes an access of a width moves (R58). -/
def Width.bytes : Width → Nat
  | .byte => 1
  | .half => 2
  | .word => 4

end Sys2Proof
end

