-- ==== Sys2Proof/Config.lean ====
section
/-! DEFINITION. What an implementation fixes (the named parameters of 00_scope.md R7, as plain data) and
the free values: constants without a body that stand for what the spec leaves undefined (`draw(w)` of R10)
or to the environment (20_memory.md R65). The values the spec takes by default are in
`Sys2Proof.Machine.Defaults`. -/

namespace Sys2Proof.Config

/-- `NARROW_LOAD_EXT`: how LOADB and LOADH fill the upper bits (42_memory_ops.md R165, R167; D10). -/
inductive NarrowExt where
  | zero
  | sign
  deriving DecidableEq, Repr

/-- `SHIFT_AMOUNT_MODE`: which bits of the amount SHL, SHR, ASHR use (40_alu.md R133; D13). -/
inductive ShiftMode where
  | full
  | mod32
  deriving DecidableEq, Repr

/-- What a fetch at a pc with non-zero low bits does: the spec's default, a model fault (20_memory.md R57,
D12), or the alternative reading it lets a model select, masking the low bits (93 U6). -/
inductive FetchMode where
  | fault
  | mask
  deriving DecidableEq, Repr

/-- What answers an access (20_memory.md R64, R65). -/
inductive RegionKind where
  /-- Plain memory: the bytes are the model's. -/
  | plain
  /-- `IO_REGION`: the environment answers reads, writes are output events. -/
  | io
  deriving DecidableEq, Repr

/-- One row of `MEM_MAP`: the byte addresses from `first` to `last`, both included. -/
structure Region where
  first : Nat
  last : Nat
  kind : RegionKind
  deriving DecidableEq, Repr

/-- `OPCODE_MAP`: the 5-bit number, bits 31:27 of a word, of each operation (30_encoding.md R88; D1). RET, RETI and RETN
share one (R91). The numbers no operation has are reserved (R89). -/
structure OpcodeMap where
  move : BitVec 5
  or : BitVec 5
  and : BitVec 5
  xor : BitVec 5
  add : BitVec 5
  adc : BitVec 5
  sub : BitVec 5
  rotl : BitVec 5
  rotr : BitVec 5
  shl : BitVec 5
  shr : BitVec 5
  ashr : BitVec 5
  cmp : BitVec 5
  pop : BitVec 5
  push : BitVec 5
  loadb : BitVec 5
  storeb : BitVec 5
  loadh : BitVec 5
  storeh : BitVec 5
  load : BitVec 5
  store : BitVec 5
  jp : BitVec 5
  call : BitVec 5
  jr : BitVec 5
  ret : BitVec 5
  halt : BitVec 5
  deriving DecidableEq, Repr

/-- `RESET_STATE`: the pc, SR and IIF after reset (00_scope.md R7, 93 U16; D20). -/
structure ResetState where
  pc : Word
  sr : Machine.Status
  iif : Bool
  deriving DecidableEq, Repr

/-- The open parameters of 00_scope.md R7 that the machine's rules and its reset read. -/
structure Params where
  /-- `OPCODE_MAP`. -/
  opcodeMap : OpcodeMap
  /-- `NARROW_LOAD_EXT`. -/
  narrowLoadExt : NarrowExt
  /-- `SHIFT_AMOUNT_MODE`. -/
  shiftMode : ShiftMode
  /-- The treatment of a misaligned fetch (D12, U6). -/
  fetchMode : FetchMode
  /-- `MEM_MAP` and `IO_REGION` in one list; an address in no row is unpopulated. -/
  memMap : List Region
  /-- `NMI_VECTOR`. -/
  nmiVector : Word
  /-- `RESET_STATE`. -/
  resetState : ResetState
  deriving DecidableEq, Repr

/-- One access in `IO_REGION`, as the environment sees it (20_memory.md R65): address (after the alignment
of R54), width, and the value written or answered (its low `8n` bits, the rest zero). -/
inductive IoEvent where
  | read (addr : Word) (width : Width) (value : Word)
  | write (addr : Word) (width : Width) (value : Word)
  deriving DecidableEq, Repr

/-- `draw(1)` of R10: the value of the n-th one-bit draw. It has no body, so nothing can be proved of it
but what holds for every value (40_alu.md R124, R125). -/
opaque freeBit : Nat → Bool

/-- `draw(32)` of R10: the value of the n-th 32-bit draw (42_memory_ops.md R170). No body. -/
opaque freeWord : Nat → Word

/-- The environment's answer to a read in `IO_REGION` (20_memory.md R65), as a function of everything the
processor has done there before, the aligned address and the width. No body. -/
opaque ioAnswer : List IoEvent → Word → Width → Word

/-- `INT0_LINE` of 00_scope.md R7: what the environment drives at the n-th instruction boundary, as a function of everything
the processor has done in `IO_REGION` before (60_exceptions.md R234). No body, so a claim holds for every behaviour. -/
opaque int0Line : List IoEvent → Nat → Bool

/-- `NMI_LINE` of 00_scope.md R7, likewise. No body. -/
opaque nmiLine : List IoEvent → Nat → Bool

end Sys2Proof.Config
end

