-- ==== Sys2Proof/Syntax.lean ====
section
/-! DEFINITION. The instructions: one constructor of `Instr` for each of the 52 rows of
spec/opcode_table.json (one per instruction and form, 30_encoding.md R97), and the names their fields take. -/

namespace Sys2Proof

/-- The eight general registers (10_state.md R20). `r7` is the stack pointer (R22). -/
inductive Reg where
  | r0 | r1 | r2 | r3 | r4 | r5 | r6 | r7
  deriving DecidableEq, Repr

/-- The sixteen rows of the condition code table (30_encoding.md R92). `reserved` is code 1111, which no
well-formed instruction carries (`Sys2Proof.Instr.WellFormed`). -/
inductive Cond where
  | always | eq | ne | lt | le | gt | ge | ult | ule | ugt | uge | n | nn | v | nv | reserved
  deriving DecidableEq, Repr

/-- The operations that have an opcode number (30_encoding.md R88). RET, RETI and RETN share one (R91). -/
inductive Op where
  | move | or | and | xor | add | adc | sub | rotl | rotr | shl | shr | ashr | cmp
  | pop | push | loadb | storeb | loadh | storeh | load | store
  | jp | call | jr | ret | halt
  deriving DecidableEq, Repr

/-- The instruction set. Suffixes name the form: `R` register second operand (format A-R, R82), `I`
immediate second operand (A-I, R83), `Base` base plus offset and `Abs` absolute address (format M, R84),
`Addr` 20-bit target and `Reg` target in a register (format C, R85). Operand order is destination (or data)
register, then sources, then the 20-bit field; format C has the condition first. -/
inductive Instr where
  | orR (dest src1 src2 : Reg)
  | orI (dest src1 : Reg) (imm : Imm20)
  | andR (dest src1 src2 : Reg)
  | andI (dest src1 : Reg) (imm : Imm20)
  | xorR (dest src1 src2 : Reg)
  | xorI (dest src1 : Reg) (imm : Imm20)
  | addR (dest src1 src2 : Reg)
  | addI (dest src1 : Reg) (imm : Imm20)
  | adcR (dest src1 src2 : Reg)
  | adcI (dest src1 : Reg) (imm : Imm20)
  | subR (dest src1 src2 : Reg)
  | subI (dest src1 : Reg) (imm : Imm20)
  | rotlR (dest src1 src2 : Reg)
  | rotlI (dest src1 : Reg) (imm : Imm20)
  | rotrR (dest src1 src2 : Reg)
  | rotrI (dest src1 : Reg) (imm : Imm20)
  | shlR (dest src1 src2 : Reg)
  | shlI (dest src1 : Reg) (imm : Imm20)
  | shrR (dest src1 src2 : Reg)
  | shrI (dest src1 : Reg) (imm : Imm20)
  | ashrR (dest src1 src2 : Reg)
  | ashrI (dest src1 : Reg) (imm : Imm20)
  | cmpR (src1 src2 : Reg)
  | cmpI (src1 : Reg) (imm : Imm20)
  | moveR (dest src : Reg)
  | moveI (dest : Reg) (imm : Imm20)
  | moveToSrR (src : Reg)
  | moveToSrI (imm : Imm20)
  | moveFromSr (dest : Reg)
  | loadbBase (reg base : Reg) (offset : Imm20)
  | loadbAbs (reg : Reg) (addr : Imm20)
  | storebBase (reg base : Reg) (offset : Imm20)
  | storebAbs (reg : Reg) (addr : Imm20)
  | loadhBase (reg base : Reg) (offset : Imm20)
  | loadhAbs (reg : Reg) (addr : Imm20)
  | storehBase (reg base : Reg) (offset : Imm20)
  | storehAbs (reg : Reg) (addr : Imm20)
  | loadBase (reg base : Reg) (offset : Imm20)
  | loadAbs (reg : Reg) (addr : Imm20)
  | storeBase (reg base : Reg) (offset : Imm20)
  | storeAbs (reg : Reg) (addr : Imm20)
  | pop (reg : Reg)
  | push (reg : Reg)
  | jpAddr (cond : Cond) (addr : Imm20)
  | jpReg (cond : Cond) (reg : Reg)
  | callAddr (cond : Cond) (addr : Imm20)
  | callReg (cond : Cond) (reg : Reg)
  | jr (cond : Cond) (offset : Imm20)
  | ret (cond : Cond)
  | reti (cond : Cond)
  | retn (cond : Cond)
  | halt (cond : Cond)
  deriving DecidableEq, Repr

/-- The condition an instruction carries: format C has one (30_encoding.md R85), the others run always. -/
def Instr.cond : Instr → Cond
  | .orR _ _ _ => .always
  | .orI _ _ _ => .always
  | .andR _ _ _ => .always
  | .andI _ _ _ => .always
  | .xorR _ _ _ => .always
  | .xorI _ _ _ => .always
  | .addR _ _ _ => .always
  | .addI _ _ _ => .always
  | .adcR _ _ _ => .always
  | .adcI _ _ _ => .always
  | .subR _ _ _ => .always
  | .subI _ _ _ => .always
  | .rotlR _ _ _ => .always
  | .rotlI _ _ _ => .always
  | .rotrR _ _ _ => .always
  | .rotrI _ _ _ => .always
  | .shlR _ _ _ => .always
  | .shlI _ _ _ => .always
  | .shrR _ _ _ => .always
  | .shrI _ _ _ => .always
  | .ashrR _ _ _ => .always
  | .ashrI _ _ _ => .always
  | .cmpR _ _ => .always
  | .cmpI _ _ => .always
  | .moveR _ _ => .always
  | .moveI _ _ => .always
  | .moveToSrR _ => .always
  | .moveToSrI _ => .always
  | .moveFromSr _ => .always
  | .loadbBase _ _ _ => .always
  | .loadbAbs _ _ => .always
  | .storebBase _ _ _ => .always
  | .storebAbs _ _ => .always
  | .loadhBase _ _ _ => .always
  | .loadhAbs _ _ => .always
  | .storehBase _ _ _ => .always
  | .storehAbs _ _ => .always
  | .loadBase _ _ _ => .always
  | .loadAbs _ _ => .always
  | .storeBase _ _ _ => .always
  | .storeAbs _ _ => .always
  | .pop _ => .always
  | .push _ => .always
  | .jpAddr c _ => c
  | .jpReg c _ => c
  | .callAddr c _ => c
  | .callReg c _ => c
  | .jr c _ => c
  | .ret c => c
  | .reti c => c
  | .retn c => c
  | .halt c => c

end Sys2Proof
end

