-- ==== Sys2Proof/WellFormed.lean ====
section
/-! DEFINITION. Which terms of `Instr` are instructions. Every other field's range is the range of its
type (eight registers, twenty bits); the one value an encoding does not admit is condition code 1111
(30_encoding.md R92, R95; the notes of spec/opcode_table.json: "cond 25:22 may be 0000 to 1110"). -/

namespace Sys2Proof

/-- The instruction's condition is not the reserved code 1111 (R92). -/
abbrev Instr.WellFormed (i : Instr) : Prop := i.cond ≠ .reserved

end Sys2Proof
end

