-- ==== Sys2Proof/Decode.lean ====
section
/-! DEFINITION. The decoder of 30_encoding.md R96, total on every 32-bit word, and after it the encoder, both
for any opcode map (`OPCODE_MAP`, R88), a configuration value whose default is the table of R88. -/

namespace Sys2Proof

/-- Why a word is no instruction (30_encoding.md R95). Raised by the decoder only; safe, the machine stops. -/
inductive DecodeError where
  /-- The opcode is one of the six values R89 leaves unassigned. -/
  | illegalInstruction
  /-- The opcode is assigned but a field that must be zero is not, or a selector is reserved. -/
  | reservedEncoding
  deriving DecidableEq, Repr

open Sys2Proof.Config (OpcodeMap)

/-- The numbers of R88, the default of `OPCODE_MAP` (DESIGN CHOICE D1 of the spec, log 9; unsafe for claims about words). -/
def defaultOpcodeMap : OpcodeMap where
  move := 0b00000#5
  or := 0b00001#5
  and := 0b00010#5
  xor := 0b00011#5
  add := 0b00100#5
  adc := 0b00101#5
  sub := 0b00110#5
  rotl := 0b01000#5
  rotr := 0b01001#5
  shl := 0b01010#5
  shr := 0b01011#5
  ashr := 0b01100#5
  cmp := 0b01101#5
  pop := 0b10000#5
  push := 0b10001#5
  loadb := 0b10010#5
  storeb := 0b10011#5
  loadh := 0b10100#5
  storeh := 0b10101#5
  load := 0b10110#5
  store := 0b10111#5
  jp := 0b11000#5
  call := 0b11001#5
  jr := 0b11010#5
  ret := 0b11011#5
  halt := 0b11111#5

/-- The number a map gives an operation. -/
def Config.OpcodeMap.code (m : OpcodeMap) : Op → BitVec 5
  | .move => m.move
  | .or => m.or
  | .and => m.and
  | .xor => m.xor
  | .add => m.add
  | .adc => m.adc
  | .sub => m.sub
  | .rotl => m.rotl
  | .rotr => m.rotr
  | .shl => m.shl
  | .shr => m.shr
  | .ashr => m.ashr
  | .cmp => m.cmp
  | .pop => m.pop
  | .push => m.push
  | .loadb => m.loadb
  | .storeb => m.storeb
  | .loadh => m.loadh
  | .storeh => m.storeh
  | .load => m.load
  | .store => m.store
  | .jp => m.jp
  | .call => m.call
  | .jr => m.jr
  | .ret => m.ret
  | .halt => m.halt

/-- Every operation of R88, in the order of its table. -/
def allOps : List Op :=
  [.move, .or, .and, .xor, .add, .adc, .sub, .rotl, .rotr, .shl, .shr, .ashr, .cmp,
   .pop, .push, .loadb, .storeb, .loadh, .storeh, .load, .store, .jp, .call, .jr, .ret, .halt]

/-- No number is given to two operations, as in every map that lets a word be told by its opcode. -/
abbrev Config.OpcodeMap.Distinct (m : OpcodeMap) : Prop := (allOps.map m.code).Nodup

/-- The operation an opcode number names under a map; none for the numbers the map leaves reserved (R89). Under a map that
gives a number twice, the first operation in the order of R88 has it (log 9). -/
def opOf (m : OpcodeMap) (n : BitVec 5) : Option Op :=
  allOps.find? (fun op => m.code op == n)

/-- The number of a register in a 3-bit field (10_state.md R20). -/
def Reg.bits : Reg → BitVec 3
  | .r0 => 0#3
  | .r1 => 1#3
  | .r2 => 2#3
  | .r3 => 3#3
  | .r4 => 4#3
  | .r5 => 5#3
  | .r6 => 6#3
  | .r7 => 7#3

/-- The register a 3-bit field names (10_state.md R20). -/
def Reg.ofBits (b : BitVec 3) : Reg :=
  match b.toNat with
  | 0 => .r0
  | 1 => .r1
  | 2 => .r2
  | 3 => .r3
  | 4 => .r4
  | 5 => .r5
  | 6 => .r6
  | _ => .r7

/-- The code of a condition, bits 25:22 of format C (R92). -/
def Cond.bits : Cond → BitVec 4
  | .always => 0b0000#4
  | .eq => 0b0001#4
  | .ne => 0b0010#4
  | .lt => 0b0011#4
  | .le => 0b0100#4
  | .gt => 0b0101#4
  | .ge => 0b0110#4
  | .ult => 0b0111#4
  | .ule => 0b1000#4
  | .ugt => 0b1001#4
  | .uge => 0b1010#4
  | .n => 0b1011#4
  | .nn => 0b1100#4
  | .v => 0b1101#4
  | .nv => 0b1110#4
  | .reserved => 0b1111#4

/-- The condition a 4-bit code selects (R92). -/
def Cond.ofBits (b : BitVec 4) : Cond :=
  match b.toNat with
  | 0 => .always
  | 1 => .eq
  | 2 => .ne
  | 3 => .lt
  | 4 => .le
  | 5 => .gt
  | 6 => .ge
  | 7 => .ult
  | 8 => .ule
  | 9 => .ugt
  | 10 => .uge
  | 11 => .n
  | 12 => .nn
  | 13 => .v
  | 14 => .nv
  | _ => .reserved

/-! The fields of an instruction word (R81 to R85). -/

/-- Bits 31:27, the opcode number (R81). -/
def opcodeField (w : Word) : BitVec 5 := w.extractLsb' 27 5

/-- Bit 26, the mode selector (R81). -/
def modeBit (w : Word) : BitVec 1 := w.extractLsb' 26 1

/-- Bits 25:23: dest of format A, reg of format M (R82, R84). -/
def destField (w : Word) : Reg := Reg.ofBits (w.extractLsb' 23 3)

/-- Bits 22:20: src1 of format A, base of format M, the selector of MOVE (R82, R84, R90). -/
def src1Field (w : Word) : Reg := Reg.ofBits (w.extractLsb' 20 3)

/-- Bits 19:17: src2 of format A-R, the register of C-reg (R82, R85). -/
def src2Field (w : Word) : Reg := Reg.ofBits (w.extractLsb' 17 3)

/-- Bits 16:0, unused in formats A-R and C-reg (R82, R85). -/
def low17 (w : Word) : BitVec 17 := w.extractLsb' 0 17

/-- Bits 19:0, the immediate, offset or address (R86). -/
def immField (w : Word) : Imm20 := w.extractLsb' 0 20

/-- Bits 25:22 of format C, the condition (R85). -/
def condField (w : Word) : Cond := Cond.ofBits (w.extractLsb' 22 4)

/-- Bits 21:20 of format C, drawn as constant 0 (R85). -/
def gapField (w : Word) : BitVec 2 := w.extractLsb' 20 2

/-! The arms of R96. -/

/-- The eleven three-operand operations: a register form with bits 16:0 zero and an immediate form. -/
def decodeAlu (regForm : Reg → Reg → Reg → Instr) (immForm : Reg → Reg → Imm20 → Instr) (w : Word) :
    Except DecodeError Instr :=
  if modeBit w = 0#1 then
    if low17 w = 0#17 then .ok (regForm (destField w) (src1Field w) (src2Field w))
    else .error .reservedEncoding
  else .ok (immForm (destField w) (src1Field w) (immField w))

/-- CMP: as the others, with the dest field zero (R94). -/
def decodeCmp (w : Word) : Except DecodeError Instr :=
  if destField w = .r0 then
    decodeAlu (fun _ a b => .cmpR a b) (fun _ a i => .cmpI a i) w
  else .error .reservedEncoding

/-- MOVE: the src1 field selects the form (R90). -/
def decodeMove (w : Word) : Except DecodeError Instr :=
  if modeBit w = 0#1 ∧ low17 w ≠ 0#17 then .error .reservedEncoding
  else
    match src1Field w with
    | .r0 =>
      if modeBit w = 0#1 then .ok (.moveR (destField w) (src2Field w))
      else .ok (.moveI (destField w) (immField w))
    | .r1 =>
      if destField w = .r0 then
        if modeBit w = 0#1 then .ok (.moveToSrR (src2Field w)) else .ok (.moveToSrI (immField w))
      else .error .reservedEncoding
    | .r2 =>
      if modeBit w = 0#1 ∧ immField w = 0#20 then .ok (.moveFromSr (destField w))
      else .error .reservedEncoding
    | .r3 => .error .reservedEncoding
    | .r4 => .error .reservedEncoding
    | .r5 => .error .reservedEncoding
    | .r6 => .error .reservedEncoding
    | .r7 => .error .reservedEncoding

/-- The six loads and stores: base form, or absolute form with the base field zero (R84, R94). -/
def decodeMem (baseForm : Reg → Reg → Imm20 → Instr) (absForm : Reg → Imm20 → Instr) (w : Word) :
    Except DecodeError Instr :=
  if modeBit w = 0#1 then .ok (baseForm (destField w) (src1Field w) (immField w))
  else if src1Field w = .r0 then .ok (absForm (destField w) (immField w))
  else .error .reservedEncoding

/-- PUSH and POP: bit 26, base and offset zero (R94). -/
def decodeStack (form : Reg → Instr) (w : Word) : Except DecodeError Instr :=
  if modeBit w = 0#1 ∧ src1Field w = .r0 ∧ immField w = 0#20 then .ok (form (destField w))
  else .error .reservedEncoding

/-- JP and CALL: bits 21:20 zero, condition not 1111, target in the field or in a register (R85, R94). -/
def decodeJump (addrForm : Cond → Imm20 → Instr) (regForm : Cond → Reg → Instr) (w : Word) :
    Except DecodeError Instr :=
  if gapField w ≠ 0#2 ∨ condField w = .reserved then .error .reservedEncoding
  else if modeBit w = 0#1 then .ok (addrForm (condField w) (immField w))
  else if low17 w = 0#17 then .ok (regForm (condField w) (src2Field w))
  else .error .reservedEncoding

/-- JR: C-addr form only (R85). -/
def decodeJr (w : Word) : Except DecodeError Instr :=
  if modeBit w ≠ 0#1 ∨ gapField w ≠ 0#2 ∨ condField w = .reserved then .error .reservedEncoding
  else .ok (.jr (condField w) (immField w))

/-- RET, RETI, RETN by bits 1:0 (R91). -/
def decodeRet (w : Word) : Except DecodeError Instr :=
  if modeBit w ≠ 0#1 ∨ gapField w ≠ 0#2 ∨ condField w = .reserved then .error .reservedEncoding
  else if immField w = 0#20 then .ok (.ret (condField w))
  else if immField w = 1#20 then .ok (.reti (condField w))
  else if immField w = 3#20 then .ok (.retn (condField w))
  else .error .reservedEncoding

/-- HALT: the address field zero (R94). -/
def decodeHalt (w : Word) : Except DecodeError Instr :=
  if modeBit w ≠ 0#1 ∨ gapField w ≠ 0#2 ∨ condField w = .reserved ∨ immField w ≠ 0#20 then
    .error .reservedEncoding
  else .ok (.halt (condField w))

/-- The decoder of R96 under an opcode map: every 32-bit word is one instruction or one of the two faults of R95. -/
def decode (m : OpcodeMap) (w : Word) : Except DecodeError Instr :=
  match opOf m (opcodeField w) with
  | none => .error .illegalInstruction
  | some .or => decodeAlu .orR .orI w
  | some .and => decodeAlu .andR .andI w
  | some .xor => decodeAlu .xorR .xorI w
  | some .add => decodeAlu .addR .addI w
  | some .adc => decodeAlu .adcR .adcI w
  | some .sub => decodeAlu .subR .subI w
  | some .rotl => decodeAlu .rotlR .rotlI w
  | some .rotr => decodeAlu .rotrR .rotrI w
  | some .shl => decodeAlu .shlR .shlI w
  | some .shr => decodeAlu .shrR .shrI w
  | some .ashr => decodeAlu .ashrR .ashrI w
  | some .cmp => decodeCmp w
  | some .move => decodeMove w
  | some .loadb => decodeMem .loadbBase .loadbAbs w
  | some .storeb => decodeMem .storebBase .storebAbs w
  | some .loadh => decodeMem .loadhBase .loadhAbs w
  | some .storeh => decodeMem .storehBase .storehAbs w
  | some .load => decodeMem .loadBase .loadAbs w
  | some .store => decodeMem .storeBase .storeAbs w
  | some .pop => decodeStack .pop w
  | some .push => decodeStack .push w
  | some .jp => decodeJump .jpAddr .jpReg w
  | some .call => decodeJump .callAddr .callReg w
  | some .jr => decodeJr w
  | some .ret => decodeRet w
  | some .halt => decodeHalt w

/-- The word four bytes make, the first at the lowest address and least significant (20_memory.md R51). -/
def wordOfBytes (b0 b1 b2 b3 : Byte) : Word := b3 ++ b2 ++ b1 ++ b0

/-- Byte `k` of a word, counted from the least significant (20_memory.md R51). -/
def byteOfWord (w : Word) (k : Nat) : Byte := w.extractLsb' (8 * k) 8

/-- The decoder on the bytes of an instruction as memory holds them (R80, 20_memory.md R51). -/
def decodeBytes (m : OpcodeMap) (b0 b1 b2 b3 : Byte) : Except DecodeError Instr :=
  decode m (wordOfBytes b0 b1 b2 b3)

/-- The instruction word whose low `nbits` bits are those of `w`, every other bit zero. -/
def tableWord (nbits w : Nat) : Word := BitVec.ofNat 32 (w % 2 ^ min nbits 32)

/-- What the decoder reads, under the numbers of R88, from an instruction whose bits are `w`, laid out in memory
little-endian. -/
def decodeTableWord (nbits w : Nat) : Option Instr :=
  let v := tableWord nbits w
  match decodeBytes defaultOpcodeMap (byteOfWord v 0) (byteOfWord v 1) (byteOfWord v 2) (byteOfWord v 3) with
  | .ok i => some i
  | .error _ => none

/-! The encoder, from the patterns of R97; `n` is the opcode number. -/

/-- Format A-R: `ooooo 0 ddd aaa bbb 0(17)`. -/
def packR (n : BitVec 5) (d a b : BitVec 3) : Word := n ++ 0#1 ++ d ++ a ++ b ++ 0#17

/-- Formats A-I and M: `ooooo m ddd aaa i(20)`. -/
def packI (n : BitVec 5) (m : BitVec 1) (d a : BitVec 3) (i : Imm20) : Word := n ++ m ++ d ++ a ++ i

/-- Format C-addr: `ooooo 0 cccc 00 i(20)`. -/
def packC (n : BitVec 5) (c : Cond) (i : Imm20) : Word := n ++ 0#1 ++ c.bits ++ 0#2 ++ i

/-- Format C-reg: `ooooo 1 cccc 00 bbb 0(17)`. -/
def packCReg (n : BitVec 5) (c : Cond) (r : Reg) : Word := n ++ 1#1 ++ c.bits ++ 0#2 ++ r.bits ++ 0#17

/-- The word of an instruction under an opcode map (R97). A term that is not well formed gets the word its fields spell, which the
decoder rejects. -/
def encode (m : OpcodeMap) : Instr → Word
  | .orR d a b => packR (m.code .or) d.bits a.bits b.bits
  | .orI d a i => packI (m.code .or) 1#1 d.bits a.bits i
  | .andR d a b => packR (m.code .and) d.bits a.bits b.bits
  | .andI d a i => packI (m.code .and) 1#1 d.bits a.bits i
  | .xorR d a b => packR (m.code .xor) d.bits a.bits b.bits
  | .xorI d a i => packI (m.code .xor) 1#1 d.bits a.bits i
  | .addR d a b => packR (m.code .add) d.bits a.bits b.bits
  | .addI d a i => packI (m.code .add) 1#1 d.bits a.bits i
  | .adcR d a b => packR (m.code .adc) d.bits a.bits b.bits
  | .adcI d a i => packI (m.code .adc) 1#1 d.bits a.bits i
  | .subR d a b => packR (m.code .sub) d.bits a.bits b.bits
  | .subI d a i => packI (m.code .sub) 1#1 d.bits a.bits i
  | .rotlR d a b => packR (m.code .rotl) d.bits a.bits b.bits
  | .rotlI d a i => packI (m.code .rotl) 1#1 d.bits a.bits i
  | .rotrR d a b => packR (m.code .rotr) d.bits a.bits b.bits
  | .rotrI d a i => packI (m.code .rotr) 1#1 d.bits a.bits i
  | .shlR d a b => packR (m.code .shl) d.bits a.bits b.bits
  | .shlI d a i => packI (m.code .shl) 1#1 d.bits a.bits i
  | .shrR d a b => packR (m.code .shr) d.bits a.bits b.bits
  | .shrI d a i => packI (m.code .shr) 1#1 d.bits a.bits i
  | .ashrR d a b => packR (m.code .ashr) d.bits a.bits b.bits
  | .ashrI d a i => packI (m.code .ashr) 1#1 d.bits a.bits i
  | .cmpR a b => packR (m.code .cmp) 0#3 a.bits b.bits
  | .cmpI a i => packI (m.code .cmp) 1#1 0#3 a.bits i
  | .moveR d b => packR (m.code .move) d.bits 0#3 b.bits
  | .moveI d i => packI (m.code .move) 1#1 d.bits 0#3 i
  | .moveToSrR b => packR (m.code .move) 0#3 1#3 b.bits
  | .moveToSrI i => packI (m.code .move) 1#1 0#3 1#3 i
  | .moveFromSr d => packR (m.code .move) d.bits 2#3 0#3
  | .loadbBase r b i => packI (m.code .loadb) 0#1 r.bits b.bits i
  | .loadbAbs r i => packI (m.code .loadb) 1#1 r.bits 0#3 i
  | .storebBase r b i => packI (m.code .storeb) 0#1 r.bits b.bits i
  | .storebAbs r i => packI (m.code .storeb) 1#1 r.bits 0#3 i
  | .loadhBase r b i => packI (m.code .loadh) 0#1 r.bits b.bits i
  | .loadhAbs r i => packI (m.code .loadh) 1#1 r.bits 0#3 i
  | .storehBase r b i => packI (m.code .storeh) 0#1 r.bits b.bits i
  | .storehAbs r i => packI (m.code .storeh) 1#1 r.bits 0#3 i
  | .loadBase r b i => packI (m.code .load) 0#1 r.bits b.bits i
  | .loadAbs r i => packI (m.code .load) 1#1 r.bits 0#3 i
  | .storeBase r b i => packI (m.code .store) 0#1 r.bits b.bits i
  | .storeAbs r i => packI (m.code .store) 1#1 r.bits 0#3 i
  | .pop r => packI (m.code .pop) 0#1 r.bits 0#3 0#20
  | .push r => packI (m.code .push) 0#1 r.bits 0#3 0#20
  | .jpAddr c i => packC (m.code .jp) c i
  | .jpReg c r => packCReg (m.code .jp) c r
  | .callAddr c i => packC (m.code .call) c i
  | .callReg c r => packCReg (m.code .call) c r
  | .jr c i => packC (m.code .jr) c i
  | .ret c => packC (m.code .ret) c 0#20
  | .reti c => packC (m.code .ret) c 1#20
  | .retn c => packC (m.code .ret) c 3#20
  | .halt c => packC (m.code .halt) c 0#20

end Sys2Proof
end

