-- ==== Sys2Proof/Machine/Defaults.lean ====
section
/-! DEFINITION. The values the spec gives the open parameters by default (00_scope.md R7) and what the
general registers hold at reset. -/

namespace Sys2Proof.Machine

/-- `NMI_VECTOR` by default (60_exceptions.md R232, D22; 90_conflicts.md C1). -/
def defaultNmiVector : Word := 0x0000000C#32

/-- `MEM_MAP` and `IO_REGION` by default: `IO_REGION` is 0x40000000 to 0xFFFFFFFF (20_memory.md R64, D26).
DESIGN CHOICE (log 4): everything below it is plain memory; the spec leaves `MEM_MAP` open. -/
def defaultMemMap : List Config.Region :=
  [{ first := 0x00000000, last := 0x3FFFFFFF, kind := .plain },
   { first := 0x40000000, last := 0xFFFFFFFF, kind := .io }]

/-- `RESET_STATE` by default (10_state.md R41, 70_reset_and_hazards.md R270; the spec's D20, log 3): the entry point, GIE
and the flags clear, IIF set. -/
def defaultResetState : Config.ResetState :=
  { pc := 0x00000000#32
    sr := { gie := false, n := false, z := false, v := false, c := false }
    iif := true }

/-- The spec's default for every parameter of R7 (D1, D10, D12, D13, D20, D22, D26). -/
def defaultParams : Config.Params :=
  { opcodeMap := defaultOpcodeMap
    narrowLoadExt := .zero
    shiftMode := .full
    fetchMode := .fault
    memMap := defaultMemMap
    nmiVector := defaultNmiVector
    resetState := defaultResetState }

/-- What each of R0 to R7 holds at reset. DESIGN CHOICE (log 1), unsafe: the spec gives no value
(10_state.md R41). -/
def resetRegister : Word := 0x00000000#32

end Sys2Proof.Machine
end

