-- ==== Sys2Proof/Machine/State.lean ====
section
/-! DEFINITION. The state of the machine (10_state.md R40), the reasons a step can stop, and reset. -/

namespace Sys2Proof.Machine

open Sys2Proof

/-- The eight general registers (10_state.md R20). -/
structure Regs where
  r0 : Word
  r1 : Word
  r2 : Word
  r3 : Word
  r4 : Word
  r5 : Word
  r6 : Word
  r7 : Word
  deriving DecidableEq, Repr

/-- The two interrupt request lines at one instruction boundary (10_state.md R34). -/
structure LineSample where
  int0 : Bool
  nmi : Bool
  deriving DecidableEq, Repr

/-- What drives the lines once a given list of samples is used up. -/
inductive LineSource where
  /-- The environment: `Config.int0Line` and `Config.nmiLine`, any behaviour at all (60_exceptions.md R234). -/
  | environment
  /-- Both lines keep these levels for ever. -/
  | held (level : LineSample)
  deriving DecidableEq, Repr

/-- The behaviour of the two lines from the coming boundary on (10_state.md R34, 60_exceptions.md R234). -/
structure Lines where
  /-- The samples at the coming boundaries, the next one first. -/
  given : List LineSample
  /-- What follows them. -/
  source : LineSource
  /-- How many boundaries are past. -/
  passed : Nat
  deriving DecidableEq, Repr

/-- Plain memory (10_state.md R38): the bytes something has defined, addresses strictly rising. -/
abbrev Memory := List Host.Cell

/-- The direction of an access (60_exceptions.md R248). -/
inductive Dir where
  | read
  | write
  deriving DecidableEq, Repr

/-- The model faults of 60_exceptions.md R248, with the information R248 gives each. None is an architectural
event: the machine stops where the spec describes no behaviour. All five are safe. -/
inductive Fault where
  /-- Raised by `step` on a fetched word with a reserved opcode (30_encoding.md R89, R95). Safe. -/
  | illegalInstruction (ir addr : Word)
  /-- Raised by `step` on a fetched word with an assigned opcode that is no instruction (30_encoding.md R95), and
  by `exec` on a term that carries condition code 1111, which no decoded word does (R92). Safe. -/
  | reservedEncoding (ir addr : Word)
  /-- Raised by the fetch at a pc whose low two bits are not zero (20_memory.md R57). Safe. -/
  | misalignedFetch (pc : Word)
  /-- Raised by any access that touches an address `MEM_MAP` marks as unpopulated (20_memory.md R65). Safe. -/
  | unmappedAccess (addr : Word) (width : Width) (dir : Dir)
  /-- Raised by a fetch or load of a plain-memory byte that neither the image nor a store has defined; `addr` is
  the lowest such byte of the access (70_reset_and_hazards.md R271). Safe. -/
  | unwrittenRead (addr : Word)
  deriving DecidableEq, Repr

/-- Why the model gives an instruction no meaning. -/
inductive Refusal where
  /-- Raised by `exec` for an instruction the model does not cover; no arm does. Safe. -/
  | notModelled (mnemonic : String)
  deriving DecidableEq, Repr

/-- The state (10_state.md R40), the environment's inputs still to come (R34), and the model's own bookkeeping
(the record of device accesses of 20_memory.md R65, the count of draws, the parameters of 00_scope.md R7). -/
structure State where
  /-- R0 to R7. -/
  regs : Regs
  /-- The program counter (R24). -/
  pc : Word
  /-- The status register (R27). -/
  sr : Status
  /-- The hidden non-maskable-interrupt enable flag (R33). -/
  iif : Bool
  /-- A HALT has been executed (R35). -/
  halted : Bool
  /-- Plain memory (R38). -/
  mem : Memory
  /-- The accesses made in `IO_REGION`, oldest first (20_memory.md R65). -/
  io : List Config.IoEvent
  /-- What the environment drives on the two lines (R34; log 8). -/
  lines : Lines
  /-- How many draws have been made (00_scope.md R10). -/
  draws : Nat
  /-- The open parameters (00_scope.md R7); no step changes them. -/
  params : Config.Params
  deriving DecidableEq, Repr

/-- The reset state (70_reset_and_hazards.md R270) of the default parameters, with no image loaded: pc, SR and IIF as
`RESET_STATE` says. `State.applyReset` gives these values under any parameters. -/
def State.reset : State where
  regs := ⟨resetRegister, resetRegister, resetRegister, resetRegister,
    resetRegister, resetRegister, resetRegister, resetRegister⟩
  pc := defaultParams.resetState.pc
  sr := defaultParams.resetState.sr
  iif := defaultParams.resetState.iif
  halted := false
  mem := []
  io := []
  lines := { given := [], source := .environment, passed := 0 }
  draws := 0
  params := defaultParams

end Sys2Proof.Machine
end

