-- ==== Sys2Proof/Machine/Flags.lean ====
section
/-! DEFINITION. The results and flags of 40_alu.md (R122 to R139), the 32-bit view of SR (10_state.md R28, R31) and
the condition tests (30_encoding.md R92). -/

namespace Sys2Proof.Machine

open Sys2Proof

/-! ## SR as a word -/

/-- The word MOVE SR, dest delivers: GIE, N, Z, V, C in bits 4 to 0, zeros above (41_move.md R153). -/
def Status.toWord (sr : Status) : Word :=
  0#27 ++ BitVec.ofBool sr.gie ++ BitVec.ofBool sr.n ++ BitVec.ofBool sr.z ++ BitVec.ofBool sr.v
    ++ BitVec.ofBool sr.c

/-- The status MOVE src, SR leaves: bits 4 to 0 of the source, the rest ignored (41_move.md R152). -/
def Status.ofWord (v : Word) : Status :=
  { gie := v.getLsbD 4, n := v.getLsbD 3, z := v.getLsbD 2, v := v.getLsbD 1, c := v.getLsbD 0 }

/-- Write the four flags, GIE unchanged (40_alu.md R122 to R125). -/
def Status.withFlags (sr : Status) (c v z n : Bool) : Status := { sr with c := c, v := v, z := z, n := n }

/-- Z of a result. -/
def isZero (res : Word) : Bool := res == 0#32

/-- N of a result: bit 31. -/
def isNegative (res : Word) : Bool := res.getLsbD 31

/-! ## Addition and subtraction (R122) -/

/-- `wide = u(op1) + u(op2) + cin`. -/
def addWide (op1 op2 : Word) (cin : Bool) : Nat := op1.toNat + op2.toNat + cin.toNat

/-- `res = wide mod 2^32`. -/
def addResult (op1 op2 : Word) (cin : Bool) : Word := BitVec.ofNat 32 (addWide op1 op2 cin)

/-- The flags of ADD and ADC: C the carry out of bit 31, V when equal operand signs give the other sign. -/
def addFlags (sr : Status) (op1 op2 : Word) (cin : Bool) : Status :=
  let res := addResult op1 op2 cin
  sr.withFlags
    (decide (2 ^ 32 ≤ addWide op1 op2 cin))
    (op1.getLsbD 31 == op2.getLsbD 31 && res.getLsbD 31 != op1.getLsbD 31)
    (isZero res) (isNegative res)

/-- `res = (u(op1) - u(op2)) mod 2^32`. -/
def subResult (op1 op2 : Word) : Word := op1 - op2

/-- The flags of SUB and CMP: C the borrow, V when different operand signs give the other sign. -/
def subFlags (sr : Status) (op1 op2 : Word) : Status :=
  let res := subResult op1 op2
  sr.withFlags
    (decide (op1.toNat < op2.toNat))
    (op1.getLsbD 31 != op2.getLsbD 31 && res.getLsbD 31 != op1.getLsbD 31)
    (isZero res) (isNegative res)

/-! ## Logic (R123) -/

/-- The flags of AND, OR and XOR: C and V cleared. -/
def logicFlags (sr : Status) (res : Word) : Status := sr.withFlags false false (isZero res) (isNegative res)

/-! ## Shifts (R124, R134 to R136). The carry is none where no bit is shifted out. -/

/-- SHL's result. -/
def shlResult (x : Word) (n : Nat) : Word :=
  if n = 0 then x else if n ≤ 32 then BitVec.ofNat 32 (x.toNat * 2 ^ n) else 0#32

/-- The last bit SHL shifts out. -/
def shlCarry (x : Word) (n : Nat) : Option Bool :=
  if n = 0 then none else if n ≤ 32 then some (x.getLsbD (32 - n)) else some false

/-- SHR's result. -/
def shrResult (x : Word) (n : Nat) : Word :=
  if n = 0 then x else if n ≤ 32 then BitVec.ofNat 32 (x.toNat / 2 ^ n) else 0#32

/-- The last bit SHR shifts out. -/
def shrCarry (x : Word) (n : Nat) : Option Bool :=
  if n = 0 then none else if n ≤ 32 then some (x.getLsbD (n - 1)) else some false

/-- Thirty-two copies of a bit. -/
def allBits (b : Bool) : Word := if b then 0xFFFFFFFF#32 else 0#32

/-- ASHR's result: the signed value divided by 2^n, rounded toward minus infinity. -/
def ashrResult (x : Word) (n : Nat) : Word :=
  if n = 0 then x else if n ≤ 31 then BitVec.ofInt 32 (x.toInt / 2 ^ n) else allBits (x.getLsbD 31)

/-- The last bit ASHR shifts out. -/
def ashrCarry (x : Word) (n : Nat) : Option Bool :=
  if n = 0 then none else if n ≤ 31 then some (x.getLsbD (n - 1)) else some (x.getLsbD 31)

/-- The flags of a shift: Z and N of the result, C the bit shifted out or else the draw `c`, V the draw `v`. -/
def shiftFlags (sr : Status) (res : Word) (carry : Option Bool) (c v : Bool) : Status :=
  sr.withFlags (carry.getD c) v (isZero res) (isNegative res)

/-! ## Rotates (R137 to R139), by an amount below 32 -/

/-- ROTL's result: the high `n` bits re-enter at the bottom. -/
def rotlResult (x : Word) (n : Nat) : Word := if n = 0 then x else (x <<< n) ||| (x >>> (32 - n))

/-- ROTR's result: the low `n` bits re-enter at the top. -/
def rotrResult (x : Word) (n : Nat) : Word := if n = 0 then x else (x >>> n) ||| (x <<< (32 - n))

/-! ## Conditions (30_encoding.md R92) -/

/-- `cond_holds(cond)`; none for the reserved code, which has no test. -/
def condHolds (c : Cond) (sr : Status) : Option Bool :=
  match c with
  | .always => some true
  | .eq => some sr.z
  | .ne => some (!sr.z)
  | .lt => some (sr.n != sr.v)
  | .le => some (sr.z || sr.n != sr.v)
  | .gt => some (!sr.z && sr.n == sr.v)
  | .ge => some (sr.n == sr.v)
  | .ult => some sr.c
  | .ule => some (sr.c || sr.z)
  | .ugt => some (!sr.c && !sr.z)
  | .uge => some (!sr.c)
  | .n => some sr.n
  | .nn => some (!sr.n)
  | .v => some sr.v
  | .nv => some (!sr.v)
  | .reserved => none

end Sys2Proof.Machine
end

