-- ==== Sys2Proof/Machine/Ops.lean ====
section
/-! DEFINITION. The named operations over registers, memory, the stack, the draws and the interrupts, which every
meaning and `step` are written with (00_scope.md R10, 20_memory.md R52 to R57, 60_exceptions.md R236 to R239). -/

namespace Sys2Proof.Machine

open Sys2Proof Host

/-! ## General registers (10_state.md R20) -/

/-- `x[i]`. -/
def Regs.get (x : Regs) : Reg → Word
  | .r0 => x.r0
  | .r1 => x.r1
  | .r2 => x.r2
  | .r3 => x.r3
  | .r4 => x.r4
  | .r5 => x.r5
  | .r6 => x.r6
  | .r7 => x.r7

/-- `x[i] <- v`. No register is hardwired. -/
def Regs.set (x : Regs) (r : Reg) (v : Word) : Regs :=
  match r with
  | .r0 => { x with r0 := v }
  | .r1 => { x with r1 := v }
  | .r2 => { x with r2 := v }
  | .r3 => { x with r3 := v }
  | .r4 => { x with r4 := v }
  | .r5 => { x with r5 := v }
  | .r6 => { x with r6 := v }
  | .r7 => { x with r7 := v }

/-- Read a general register. -/
def State.reg (s : State) (r : Reg) : Word := s.regs.get r

/-- Write a general register. -/
def State.setReg (s : State) (r : Reg) (v : Word) : State := { s with regs := s.regs.set r v }

/-- Write the program counter. -/
def State.setPc (s : State) (t : Word) : State := { s with pc := t }

/-- Write the status register. -/
def State.setSr (s : State) (sr : Status) : State := { s with sr := sr }

/-- Reset of the processor (70_reset_and_hazards.md R270): the pc, SR and IIF that `RESET_STATE` gives, and no longer
halted. -/
def State.applyReset (s : State) : State :=
  { s with
    pc := s.params.resetState.pc, sr := s.params.resetState.sr, iif := s.params.resetState.iif, halted := false }

/-! ## Plain memory -/

/-- What a byte that nothing has defined reads as: nothing (70_reset_and_hazards.md R271, the recommended
treatment; log 2). -/
def Memory.unlisted : Option Byte := none

/-- The byte at an address, if something has defined it. -/
def Memory.read (m : Memory) (a : Nat) : Option Byte :=
  match m with
  | [] => Memory.unlisted
  | (k, b) :: rest => if a = k then some b else if a < k then Memory.unlisted else Memory.read rest a

/-- Define the byte at an address, keeping the addresses strictly rising. -/
def Memory.write (m : Memory) (a : Nat) (b : Byte) : Memory :=
  match m with
  | [] => [(a, b)]
  | (k, c) :: rest =>
    if a = k then (a, b) :: rest
    else if a < k then (a, b) :: (k, c) :: rest
    else (k, c) :: Memory.write rest a b

/-- Every address of a memory is above `lo`, and they rise strictly. -/
def Memory.risingFrom (lo : Nat) (m : Memory) : Bool :=
  match m with
  | [] => true
  | (k, _) :: rest => decide (lo ≤ k) && Memory.risingFrom (k + 1) rest

/-- The canonical form: strictly rising addresses, and no entry equal to what an unlisted address reads as. -/
def Memory.wf (m : Memory) : Bool :=
  Memory.risingFrom 0 m && m.all (fun cell => some cell.2 != Memory.unlisted)

/-- The byte at a 32-bit address, or the address itself where nothing has defined it. -/
def Memory.byteAt (m : Memory) (a : Word) : Except Word Byte :=
  match m.read a.toNat with
  | some b => .ok b
  | none => .error a

/-- `MemRead` on plain memory at an aligned address (20_memory.md R52), the bits above `8n` zero. -/
def Memory.load (m : Memory) (a : Word) : Width → Except Word Word
  | .byte => do
    let b0 ← m.byteAt a
    return b0.setWidth 32
  | .half => do
    let b0 ← m.byteAt a
    let b1 ← m.byteAt (a + 1#32)
    return (b1 ++ b0).setWidth 32
  | .word => do
    let b0 ← m.byteAt a
    let b1 ← m.byteAt (a + 1#32)
    let b2 ← m.byteAt (a + 2#32)
    let b3 ← m.byteAt (a + 3#32)
    return wordOfBytes b0 b1 b2 b3

/-- `MemWrite` on plain memory at an aligned address (20_memory.md R53). -/
def Memory.store (m : Memory) (a : Word) (w : Width) (v : Word) : Memory :=
  match w with
  | .byte => m.write a.toNat (byteOfWord v 0)
  | .half =>
    (m.write a.toNat (byteOfWord v 0)).write (a + 1#32).toNat (byteOfWord v 1)
  | .word =>
    (((m.write a.toNat (byteOfWord v 0)).write (a + 1#32).toNat (byteOfWord v 1)).write
      (a + 2#32).toNat (byteOfWord v 2)).write (a + 3#32).toNat (byteOfWord v 3)

/-! ## Accesses -/

/-- `align(addr, n)`: the low bits a width ignores are dropped, never checked (20_memory.md R54). -/
def align (a : Word) : Width → Word
  | .byte => a
  | .half => a &&& 0xFFFFFFFE#32
  | .word => a &&& 0xFFFFFFFC#32

/-- What answers at a byte address: the first row of the map that holds it; none if no row does. -/
def regionAt (map : List Config.Region) (a : Nat) : Option Config.RegionKind :=
  (map.find? (fun r => decide (r.first ≤ a) && decide (a ≤ r.last))).map (·.kind)

/-- What answers an access at an aligned address: nothing if a byte of it is unpopulated, the environment if a
byte of it is in `IO_REGION`, else plain memory (20_memory.md R52, R65). -/
def accessKind (map : List Config.Region) (a : Word) (w : Width) : Option Config.RegionKind :=
  let kinds := (List.range w.bytes).map (fun k => regionAt map (a.toNat + k))
  if kinds.any (· == none) then none
  else if kinds.any (· == some .io) then some .io
  else some .plain

/-- The low `8n` bits of a word, the rest zero. -/
def lowBits (w : Width) (v : Word) : Word :=
  match w with
  | .byte => (v.setWidth 8).setWidth 32
  | .half => (v.setWidth 16).setWidth 32
  | .word => v

/-- `MemRead(addr, n)` (20_memory.md R52, R54, R65): the value, the bits above `8n` zero, and the state, which a
read in `IO_REGION` extends by the access it made. -/
def memRead (s : State) (addr : Word) (w : Width) : Except Fault (Word × State) :=
  let a := align addr w
  match accessKind s.params.memMap a w with
  | none => .error (.unmappedAccess a w .read)
  | some .io =>
    let v := lowBits w (Config.ioAnswer s.io a w)
    .ok (v, { s with io := s.io ++ [.read a w v] })
  | some .plain =>
    match s.mem.load a w with
    | .ok v => .ok (v, s)
    | .error missing => .error (.unwrittenRead missing)

/-- `MemWrite(addr, n, v)` (20_memory.md R53, R54, R65): a write in `IO_REGION` is an output event and changes no
byte of plain memory. -/
def memWrite (s : State) (addr : Word) (w : Width) (v : Word) : Except Fault State :=
  let a := align addr w
  match accessKind s.params.memMap a w with
  | none => .error (.unmappedAccess a w .write)
  | some .io => .ok { s with io := s.io ++ [.write a w (lowBits w v)] }
  | some .plain => .ok { s with mem := s.mem.store a w v }

/-- The output events of a run (20_memory.md R65, 70_reset_and_hazards.md R279): the device writes, oldest first. -/
def State.outputs (s : State) : List Config.IoEvent :=
  s.io.filter (fun e => match e with | .write _ _ _ => true | .read _ _ _ => false)

/-! ## Draws (00_scope.md R10) -/

/-- The `k`-th one-bit draw from here. -/
def State.bit (s : State) (k : Nat) : Bool := Config.freeBit (s.draws + k)

/-- The next 32-bit draw. -/
def State.word (s : State) : Word := Config.freeWord s.draws

/-- Count `k` draws as made, so that no later draw is the same one. -/
def State.spend (s : State) (k : Nat) : State := { s with draws := s.draws + k }

/-! ## The stack (42_memory_ops.md R168, R169, R171) -/

/-- SP <- SP - 4, then the word at the new SP. -/
def pushWord (s : State) (v : Word) : Except Fault State :=
  let sp := s.reg .r7 - 4#32
  memWrite (s.setReg .r7 sp) sp .word v

/-- The word at SP, then SP <- SP + 4. -/
def popWord (s : State) : Except Fault (Word × State) :=
  match memRead s (s.reg .r7) .word with
  | .error f => .error f
  | .ok (v, t) => .ok (v, t.setReg .r7 (s.reg .r7 + 4#32))

/-- Pop the pc, as RET, RETI and RETN do (43_control.md R186, 44_system.md R202, R203). -/
def popPc (s : State) : Except Fault State :=
  match popWord s with
  | .error f => .error f
  | .ok (v, t) => .ok (t.setPc v)

/-! ## Interrupts (60_exceptions.md R236 to R239, R242) -/

/-- The two levels (R230). -/
inductive Level where
  | int0
  | nmi
  deriving DecidableEq, Repr

/-- The levels a source of the lines drives at the n-th boundary, after the device accesses `io`. -/
def LineSource.level (source : LineSource) (io : List Config.IoEvent) (n : Nat) : LineSample :=
  match source with
  | .environment => { int0 := Config.int0Line io n, nmi := Config.nmiLine io n }
  | .held level => level

/-- The lines after one more boundary. -/
def Lines.pass (ls : Lines) : Lines := { ls with given := ls.given.tail, passed := ls.passed + 1 }

/-- The lines at the coming boundary (R234). -/
def State.sample (s : State) : LineSample :=
  match s.lines.given with
  | l :: _ => l
  | [] => s.lines.source.level s.io s.lines.passed

/-- The boundary is past: the environment's sample for it is used up. -/
def State.passBoundary (s : State) : State := { s with lines := s.lines.pass }

/-- The interrupt the check of R236 takes, NMI before INT0 (R237). -/
def takenInterrupt (s : State) : Option Level :=
  if s.sample.nmi && s.iif then some .nmi
  else if s.sample.int0 && s.sr.gie then some .int0
  else none

/-- Set a level's enable bit: GIE for INT0, IIF for NMI (R235). -/
def State.setEnable (s : State) (l : Level) (on : Bool) : State :=
  match l with
  | .int0 => { s with sr := { s.sr with gie := on } }
  | .nmi => { s with iif := on }

/-- Where a level's handler is: the word at address 8 for INT0 (R231), `NMI_VECTOR` for NMI (R232). -/
def handlerAddress (s : State) (l : Level) : Except Fault (Word × State) :=
  match l with
  | .int0 => memRead s 8#32 .word
  | .nmi => .ok (s.params.nmiVector, s)

/-- Taking an interrupt: clear the level's enable, push the pc, go to the handler (R238, R239). Nothing else is saved
or changed. -/
def enterInterrupt (s : State) (l : Level) : Except Fault State :=
  match pushWord (s.setEnable l false) s.pc with
  | .error f => .error f
  | .ok t =>
    match handlerAddress t l with
    | .error f => .error f
    | .ok (h, u) => .ok (u.setPc h)

/-- Returning from an interrupt: pop the pc, set the level's enable (R242). -/
def leaveInterrupt (s : State) (l : Level) : Except Fault State :=
  match popPc s with
  | .error f => .error f
  | .ok t => .ok (t.setEnable l true)

/-! ## The step's parts -/

/-- The fetch (00_scope.md R11, 20_memory.md R57): the word at the pc, and the pc moved past it. -/
def fetch (s : State) : Except Fault (Word × State) :=
  if s.params.fetchMode = .fault ∧ s.pc &&& 3#32 ≠ 0#32 then .error (.misalignedFetch s.pc)
  else
    match memRead s s.pc .word with
    | .error f => .error f
    | .ok (ir, t) => .ok (ir, t.setPc (s.pc + 4#32))

/-- The model fault of a word that is no instruction (30_encoding.md R95, 60_exceptions.md R248). -/
def decodeFault (e : DecodeError) (ir addr : Word) : Fault :=
  match e with
  | .illegalInstruction => .illegalInstruction ir addr
  | .reservedEncoding => .reservedEncoding ir addr

/-- An operation's result as a step's outcome. -/
def finish (r : Except Fault State) : Outcome State Fault Refusal :=
  match r with
  | .ok s => .next s
  | .error f => .fault f

/-- The state whose next step fetches the word `v`: `v` stands at the (aligned) pc, the machine runs, and a quiet sample
of the lines comes first, so that the step takes no interrupt. -/
def placeInstruction (s : State) (v : Word) : State :=
  { s with
    pc := align s.pc .word
    halted := false
    mem := s.mem.store (align s.pc .word) .word v
    lines := { s.lines with given := { int0 := false, nmi := false } :: s.lines.given } }

end Sys2Proof.Machine
end

