-- ==== Sys2Proof/Machine/Operands.lean ====
section
/-! DEFINITION. The operand forms (30_encoding.md R86, R87; 42_memory_ops.md R160; 43_control.md R181). -/

namespace Sys2Proof.Machine

open Sys2Proof

/-- `sext_32(ir[19:0])`: the immediate, never scaled (30_encoding.md R86). -/
def sext (i : Imm20) : Word := i.signExtend 32

/-- The effective address of the base form, modulo 2^32 (42_memory_ops.md R160, R161). -/
def baseAddress (s : State) (base : Reg) (offset : Imm20) : Word := s.reg base + sext offset

/-- The effective address of the absolute form (42_memory_ops.md R160). -/
def absAddress (addr : Imm20) : Word := sext addr

/-- The target of JR: the incremented pc plus the offset, modulo 2^32 (43_control.md R181). -/
def relTarget (s : State) (offset : Imm20) : Word := s.pc + sext offset

/-- The amount SHL, SHR and ASHR shift by (40_alu.md R133). -/
def shiftAmount (s : State) (op2 : Word) : Nat :=
  match s.params.shiftMode with
  | .full => op2.toNat
  | .mod32 => op2.toNat % 32

/-- The amount ROTL and ROTR rotate by (40_alu.md R137). -/
def rotateAmount (op2 : Word) : Nat := op2.toNat % 32

/-- The value of a narrow load's destination (42_memory_ops.md R165, R167): `v` holds the bits loaded, the rest
zero. A word fills the register. -/
def extendLoad (mode : Config.NarrowExt) (w : Width) (v : Word) : Word :=
  match mode, w with
  | .zero, _ => v
  | .sign, .byte => (v.setWidth 8).signExtend 32
  | .sign, .half => (v.setWidth 16).signExtend 32
  | .sign, .word => v

end Sys2Proof.Machine
end

