-- ==== Sys2Proof/Machine/Arith.lean ====
section
/-! DEFINITION. The basic arithmetic family: ADD, ADC, SUB, CMP (40_alu.md R120 to R122, R126 to R129). -/

namespace Sys2Proof.Machine

open Sys2Proof Host

/-- An addition: result and flags of R122 from operands read beforehand (R121). -/
def addOp (dest : Reg) (op1 op2 : Word) (cin : Bool) (s : State) : State :=
  (s.setReg dest (addResult op1 op2 cin)).setSr (addFlags s.sr op1 op2 cin)

/-- A subtraction: result and flags of R122 from operands read beforehand (R121). -/
def subOp (dest : Reg) (op1 op2 : Word) (s : State) : State :=
  (s.setReg dest (subResult op1 op2)).setSr (subFlags s.sr op1 op2)

/-- A comparison: the flags of the subtraction, no register written (R129). -/
def cmpOp (op1 op2 : Word) (s : State) : State := s.setSr (subFlags s.sr op1 op2)

/-- ADD src1, src2, dest with a register second operand (40_alu.md R126). -/
def execAddR (dest src1 src2 : Reg) (s : State) : Outcome State Fault Refusal :=
  .next (addOp dest (s.reg src1) (s.reg src2) false s)

/-- ADD src1, imm, dest (40_alu.md R126). -/
def execAddI (dest src1 : Reg) (imm : Imm20) (s : State) : Outcome State Fault Refusal :=
  .next (addOp dest (s.reg src1) (sext imm) false s)

/-- ADC src1, src2, dest with a register second operand (40_alu.md R128, the carry in is the old SR.C). -/
def execAdcR (dest src1 src2 : Reg) (s : State) : Outcome State Fault Refusal :=
  .next (addOp dest (s.reg src1) (s.reg src2) s.sr.c s)

/-- ADC src1, imm, dest (40_alu.md R128, the carry in is the old SR.C). -/
def execAdcI (dest src1 : Reg) (imm : Imm20) (s : State) : Outcome State Fault Refusal :=
  .next (addOp dest (s.reg src1) (sext imm) s.sr.c s)

/-- SUB src1, src2, dest with a register second operand (40_alu.md R127). -/
def execSubR (dest src1 src2 : Reg) (s : State) : Outcome State Fault Refusal :=
  .next (subOp dest (s.reg src1) (s.reg src2) s)

/-- SUB src1, imm, dest (40_alu.md R127). -/
def execSubI (dest src1 : Reg) (imm : Imm20) (s : State) : Outcome State Fault Refusal :=
  .next (subOp dest (s.reg src1) (sext imm) s)

/-- CMP src1, src2 with a register second operand (40_alu.md R129). -/
def execCmpR (src1 src2 : Reg) (s : State) : Outcome State Fault Refusal :=
  .next (cmpOp (s.reg src1) (s.reg src2) s)

/-- CMP src1, imm (40_alu.md R129). -/
def execCmpI (src1 : Reg) (imm : Imm20) (s : State) : Outcome State Fault Refusal :=
  .next (cmpOp (s.reg src1) (sext imm) s)

end Sys2Proof.Machine
end

