-- ==== Sys2Proof/Machine/Condition.lean ====
section
/-! DEFINITION. What every format-C instruction does with its condition (30_encoding.md R93, 43_control.md R180). -/

namespace Sys2Proof.Machine

open Sys2Proof Host

/-- Run `taken` if the condition holds; if it does not, the fetch has already moved the pc and nothing else happens
(R180). A term with the reserved code faults as its word does (R92, R95); no decoded instruction is one. -/
def whenHolds (i : Instr) (s : State) (taken : Except Fault State) : Outcome State Fault Refusal :=
  match condHolds i.cond s.sr with
  | none => .fault (.reservedEncoding (encode s.params.opcodeMap i) (s.pc - 4#32))
  | some false => .next s
  | some true => finish taken

end Sys2Proof.Machine
end

