-- ==== Sys2Proof/Machine/Control.lean ====
section
/-! DEFINITION. Jumps, calls and returns (43_control.md R180 to R187). The pc is already past the instruction (R180). -/

namespace Sys2Proof.Machine

open Sys2Proof Host

/-- Save the return address on the stack and go to the target, which was read before (R184, R185). -/
def callOp (target : Word) (s : State) : Except Fault State :=
  match pushWord s s.pc with
  | .error f => .error f
  | .ok t => .ok (t.setPc target)

/-- JP addr (R182). -/
def execJpAddr (cond : Cond) (addr : Imm20) (s : State) : Outcome State Fault Refusal :=
  whenHolds (.jpAddr cond addr) s (.ok (s.setPc (sext addr)))

/-- JP (Rn) (R182). -/
def execJpReg (cond : Cond) (reg : Reg) (s : State) : Outcome State Fault Refusal :=
  whenHolds (.jpReg cond reg) s (.ok (s.setPc (s.reg reg)))

/-- JR target (R183). -/
def execJr (cond : Cond) (offset : Imm20) (s : State) : Outcome State Fault Refusal :=
  whenHolds (.jr cond offset) s (.ok (s.setPc (relTarget s offset)))

/-- CALL addr (R184). -/
def execCallAddr (cond : Cond) (addr : Imm20) (s : State) : Outcome State Fault Refusal :=
  whenHolds (.callAddr cond addr) s (callOp (sext addr) s)

/-- CALL (Rn), the target read before R7 changes (R184, R185). -/
def execCallReg (cond : Cond) (reg : Reg) (s : State) : Outcome State Fault Refusal :=
  whenHolds (.callReg cond reg) s (callOp (s.reg reg) s)

/-- RET (R186). -/
def execRet (cond : Cond) (s : State) : Outcome State Fault Refusal :=
  whenHolds (.ret cond) s (popPc s)

end Sys2Proof.Machine
end

