-- ==== Sys2Proof/Machine/LoadStore.lean ====
section
/-! DEFINITION. Loads and stores (42_memory_ops.md R160 to R167, R172). None reads or writes a bit of SR. -/

namespace Sys2Proof.Machine

open Sys2Proof Host

/-- A load: the access, then the data register, extended by `NARROW_LOAD_EXT` when narrow. -/
def loadOp (reg : Reg) (ea : Word) (w : Width) (s : State) : Except Fault State :=
  match memRead s ea w with
  | .error f => .error f
  | .ok (v, t) => .ok (t.setReg reg (extendLoad s.params.narrowLoadExt w v))

/-- A store of the low `8n` bits of the data register. -/
def storeOp (reg : Reg) (ea : Word) (w : Width) (s : State) : Except Fault State :=
  memWrite s ea w (s.reg reg)

/-- LOAD (Rb+offset) (42_memory_ops.md R162). -/
def execLoadBase (reg base : Reg) (offset : Imm20) (s : State) : Outcome State Fault Refusal :=
  finish (loadOp reg (baseAddress s base offset) .word s)

/-- LOAD (absolute) (42_memory_ops.md R162). -/
def execLoadAbs (reg : Reg) (addr : Imm20) (s : State) : Outcome State Fault Refusal :=
  finish (loadOp reg (absAddress addr) .word s)

/-- STORE (Rb+offset) (42_memory_ops.md R163). -/
def execStoreBase (reg base : Reg) (offset : Imm20) (s : State) : Outcome State Fault Refusal :=
  finish (storeOp reg (baseAddress s base offset) .word s)

/-- STORE (absolute) (42_memory_ops.md R163). -/
def execStoreAbs (reg : Reg) (addr : Imm20) (s : State) : Outcome State Fault Refusal :=
  finish (storeOp reg (absAddress addr) .word s)

/-- STOREH (Rb+offset) (42_memory_ops.md R164). -/
def execStorehBase (reg base : Reg) (offset : Imm20) (s : State) : Outcome State Fault Refusal :=
  finish (storeOp reg (baseAddress s base offset) .half s)

/-- STOREH (absolute) (42_memory_ops.md R164). -/
def execStorehAbs (reg : Reg) (addr : Imm20) (s : State) : Outcome State Fault Refusal :=
  finish (storeOp reg (absAddress addr) .half s)

/-- LOADH (Rb+offset) (42_memory_ops.md R165). -/
def execLoadhBase (reg base : Reg) (offset : Imm20) (s : State) : Outcome State Fault Refusal :=
  finish (loadOp reg (baseAddress s base offset) .half s)

/-- LOADH (absolute) (42_memory_ops.md R165). -/
def execLoadhAbs (reg : Reg) (addr : Imm20) (s : State) : Outcome State Fault Refusal :=
  finish (loadOp reg (absAddress addr) .half s)

/-- STOREB (Rb+offset) (42_memory_ops.md R166). -/
def execStorebBase (reg base : Reg) (offset : Imm20) (s : State) : Outcome State Fault Refusal :=
  finish (storeOp reg (baseAddress s base offset) .byte s)

/-- STOREB (absolute) (42_memory_ops.md R166). -/
def execStorebAbs (reg : Reg) (addr : Imm20) (s : State) : Outcome State Fault Refusal :=
  finish (storeOp reg (absAddress addr) .byte s)

/-- LOADB (Rb+offset) (42_memory_ops.md R167). -/
def execLoadbBase (reg base : Reg) (offset : Imm20) (s : State) : Outcome State Fault Refusal :=
  finish (loadOp reg (baseAddress s base offset) .byte s)

/-- LOADB (absolute) (42_memory_ops.md R167). -/
def execLoadbAbs (reg : Reg) (addr : Imm20) (s : State) : Outcome State Fault Refusal :=
  finish (loadOp reg (absAddress addr) .byte s)

end Sys2Proof.Machine
end

