-- ==== Sys2Proof/Machine/Logic.lean ====
section
/-! DEFINITION. The bitwise family: AND, OR, XOR (40_alu.md R120, R121, R123, R130 to R132). -/

namespace Sys2Proof.Machine

open Sys2Proof Host

/-- A bitwise operation: its result and the flags of R123. -/
def logicOp (dest : Reg) (res : Word) (s : State) : State :=
  (s.setReg dest res).setSr (logicFlags s.sr res)

/-- AND src1, src2, dest with a register second operand (40_alu.md R130). -/
def execAndR (dest src1 src2 : Reg) (s : State) : Outcome State Fault Refusal :=
  .next (logicOp dest (s.reg src1 &&& (s.reg src2)) s)

/-- AND src1, imm, dest (40_alu.md R130). -/
def execAndI (dest src1 : Reg) (imm : Imm20) (s : State) : Outcome State Fault Refusal :=
  .next (logicOp dest (s.reg src1 &&& (sext imm)) s)

/-- OR src1, src2, dest with a register second operand (40_alu.md R131). -/
def execOrR (dest src1 src2 : Reg) (s : State) : Outcome State Fault Refusal :=
  .next (logicOp dest (s.reg src1 ||| (s.reg src2)) s)

/-- OR src1, imm, dest (40_alu.md R131). -/
def execOrI (dest src1 : Reg) (imm : Imm20) (s : State) : Outcome State Fault Refusal :=
  .next (logicOp dest (s.reg src1 ||| (sext imm)) s)

/-- XOR src1, src2, dest with a register second operand (40_alu.md R132). -/
def execXorR (dest src1 src2 : Reg) (s : State) : Outcome State Fault Refusal :=
  .next (logicOp dest (s.reg src1 ^^^ (s.reg src2)) s)

/-- XOR src1, imm, dest (40_alu.md R132). -/
def execXorI (dest src1 : Reg) (imm : Imm20) (s : State) : Outcome State Fault Refusal :=
  .next (logicOp dest (s.reg src1 ^^^ (sext imm)) s)

end Sys2Proof.Machine
end

