-- ==== Sys2Proof/Machine/Move.lean ====
section
/-! DEFINITION. The three forms of MOVE (41_move.md R150 to R153). -/

namespace Sys2Proof.Machine

open Sys2Proof Host

/-- MOVE src, dest: no flag changes (R151). -/
def execMoveR (dest src : Reg) (s : State) : Outcome State Fault Refusal :=
  .next (s.setReg dest (s.reg src))

/-- MOVE imm, dest: no flag changes (R151). -/
def execMoveI (dest : Reg) (imm : Imm20) (s : State) : Outcome State Fault Refusal :=
  .next (s.setReg dest (sext imm))

/-- MOVE src, SR: bits 4 to 0 are written, the rest is ignored (R152). -/
def execMoveToSrR (src : Reg) (s : State) : Outcome State Fault Refusal :=
  .next (s.setSr (Status.ofWord (s.reg src)))

/-- MOVE imm, SR (R152). -/
def execMoveToSrI (imm : Imm20) (s : State) : Outcome State Fault Refusal :=
  .next (s.setSr (Status.ofWord (sext imm)))

/-- MOVE SR, dest: bits 31 to 5 read as 0 (R153). -/
def execMoveFromSr (dest : Reg) (s : State) : Outcome State Fault Refusal :=
  .next (s.setReg dest s.sr.toWord)

end Sys2Proof.Machine
end

