-- ==== Sys2Proof/Machine/Shift.lean ====
section
/-! DEFINITION. The shifts SHL, SHR, ASHR and the rotates ROTL, ROTR (40_alu.md R120, R121, R124, R125, R133 to R139). -/

namespace Sys2Proof.Machine

open Sys2Proof Host

/-- A shift: result, C as the bit shifted out or a draw, V a draw, Z and N of the result (R124). Draw 0 stands for C
and draw 1 for V; both count as made. -/
def shiftOp (dest : Reg) (res : Word) (carry : Option Bool) (s : State) : State :=
  ((s.setReg dest res).setSr (shiftFlags s.sr res carry (s.bit 0) (s.bit 1))).spend 2

/-- A rotate: the result, and C, V, Z, N a draw each (R125). -/
def rotateOp (dest : Reg) (res : Word) (s : State) : State :=
  ((s.setReg dest res).setSr (s.sr.withFlags (s.bit 0) (s.bit 1) (s.bit 2) (s.bit 3))).spend 4

/-- SHL src1, src2, dest with a register second operand (40_alu.md R134). -/
def execShlR (dest src1 src2 : Reg) (s : State) : Outcome State Fault Refusal :=
  .next (shiftOp dest (shlResult (s.reg src1) (shiftAmount s (s.reg src2))) (shlCarry (s.reg src1) (shiftAmount s (s.reg src2))) s)

/-- SHL src1, imm, dest (40_alu.md R134). -/
def execShlI (dest src1 : Reg) (imm : Imm20) (s : State) : Outcome State Fault Refusal :=
  .next (shiftOp dest (shlResult (s.reg src1) (shiftAmount s (sext imm))) (shlCarry (s.reg src1) (shiftAmount s (sext imm))) s)

/-- SHR src1, src2, dest with a register second operand (40_alu.md R135). -/
def execShrR (dest src1 src2 : Reg) (s : State) : Outcome State Fault Refusal :=
  .next (shiftOp dest (shrResult (s.reg src1) (shiftAmount s (s.reg src2))) (shrCarry (s.reg src1) (shiftAmount s (s.reg src2))) s)

/-- SHR src1, imm, dest (40_alu.md R135). -/
def execShrI (dest src1 : Reg) (imm : Imm20) (s : State) : Outcome State Fault Refusal :=
  .next (shiftOp dest (shrResult (s.reg src1) (shiftAmount s (sext imm))) (shrCarry (s.reg src1) (shiftAmount s (sext imm))) s)

/-- ASHR src1, src2, dest with a register second operand (40_alu.md R136). -/
def execAshrR (dest src1 src2 : Reg) (s : State) : Outcome State Fault Refusal :=
  .next (shiftOp dest (ashrResult (s.reg src1) (shiftAmount s (s.reg src2))) (ashrCarry (s.reg src1) (shiftAmount s (s.reg src2))) s)

/-- ASHR src1, imm, dest (40_alu.md R136). -/
def execAshrI (dest src1 : Reg) (imm : Imm20) (s : State) : Outcome State Fault Refusal :=
  .next (shiftOp dest (ashrResult (s.reg src1) (shiftAmount s (sext imm))) (ashrCarry (s.reg src1) (shiftAmount s (sext imm))) s)

/-- ROTL src1, src2, dest with a register second operand (40_alu.md R138). -/
def execRotlR (dest src1 src2 : Reg) (s : State) : Outcome State Fault Refusal :=
  .next (rotateOp dest (rotlResult (s.reg src1) (rotateAmount (s.reg src2))) s)

/-- ROTL src1, imm, dest (40_alu.md R138). -/
def execRotlI (dest src1 : Reg) (imm : Imm20) (s : State) : Outcome State Fault Refusal :=
  .next (rotateOp dest (rotlResult (s.reg src1) (rotateAmount (sext imm))) s)

/-- ROTR src1, src2, dest with a register second operand (40_alu.md R139). -/
def execRotrR (dest src1 src2 : Reg) (s : State) : Outcome State Fault Refusal :=
  .next (rotateOp dest (rotrResult (s.reg src1) (rotateAmount (s.reg src2))) s)

/-- ROTR src1, imm, dest (40_alu.md R139). -/
def execRotrI (dest src1 : Reg) (imm : Imm20) (s : State) : Outcome State Fault Refusal :=
  .next (rotateOp dest (rotrResult (s.reg src1) (rotateAmount (sext imm))) s)

end Sys2Proof.Machine
end

