-- ==== Sys2Proof/Machine/Stack.lean ====
section
/-! DEFINITION. PUSH and POP (42_memory_ops.md R168 to R172). -/

namespace Sys2Proof.Machine

open Sys2Proof Host

/-- The value PUSH stores: the register, but a draw for `PUSH R7` (R170). -/
def pushValue (reg : Reg) (s : State) : Word := if reg = .r7 then s.word else s.reg reg

/-- The draws PUSH and POP make: one where the data register is R7 (R170). -/
def stackDraws (reg : Reg) : Nat := if reg = .r7 then 1 else 0

/-- PUSH src: SP <- SP - 4, then the store at the new SP (R168, R170). -/
def execPush (reg : Reg) (s : State) : Outcome State Fault Refusal :=
  finish (pushWord (s.spend (stackDraws reg)) (pushValue reg s))

/-- POP dest: the load at SP, then SP <- SP + 4, then the destination; `POP R7` leaves a draw in R7
(R169, R170). -/
def execPop (reg : Reg) (s : State) : Outcome State Fault Refusal :=
  match popWord s with
  | .error f => .fault f
  | .ok (v, t) => .next ((t.setReg reg (if reg = .r7 then s.word else v)).spend (stackDraws reg))

end Sys2Proof.Machine
end

