-- ==== Sys2Proof/Machine/System.lean ====
section
/-! DEFINITION. HALT, RETI, RETN (44_system.md R200 to R203). -/

namespace Sys2Proof.Machine

open Sys2Proof Host

/-- RETI: pop the pc and set GIE (R202). -/
def execReti (cond : Cond) (s : State) : Outcome State Fault Refusal :=
  whenHolds (.reti cond) s (leaveInterrupt s .int0)

/-- RETN: pop the pc and set IIF (R203). -/
def execRetn (cond : Cond) (s : State) : Outcome State Fault Refusal :=
  whenHolds (.retn cond) s (leaveInterrupt s .nmi)

/-- HALT: the processor stops (R200, R201). -/
def execHalt (cond : Cond) (s : State) : Outcome State Fault Refusal :=
  whenHolds (.halt cond) s (.ok { s with halted := true })

end Sys2Proof.Machine
end

