-- ==== Sys2Proof/Machine/Dispatch.lean ====
section
/-! DEFINITION. The dispatch: one arm for each constructor of `Instr`, each one call of that instruction's meaning. -/

namespace Sys2Proof.Machine

open Sys2Proof Host

/-- What an instruction does, the pc already past it (00_scope.md R11). -/
def exec (i : Instr) (s : State) : Host.Outcome State Fault Refusal :=
  match i with
  | .orR dest src1 src2 => Sys2Proof.Machine.execOrR dest src1 src2 s
  | .orI dest src1 imm => Sys2Proof.Machine.execOrI dest src1 imm s
  | .andR dest src1 src2 => Sys2Proof.Machine.execAndR dest src1 src2 s
  | .andI dest src1 imm => Sys2Proof.Machine.execAndI dest src1 imm s
  | .xorR dest src1 src2 => Sys2Proof.Machine.execXorR dest src1 src2 s
  | .xorI dest src1 imm => Sys2Proof.Machine.execXorI dest src1 imm s
  | .addR dest src1 src2 => Sys2Proof.Machine.execAddR dest src1 src2 s
  | .addI dest src1 imm => Sys2Proof.Machine.execAddI dest src1 imm s
  | .adcR dest src1 src2 => Sys2Proof.Machine.execAdcR dest src1 src2 s
  | .adcI dest src1 imm => Sys2Proof.Machine.execAdcI dest src1 imm s
  | .subR dest src1 src2 => Sys2Proof.Machine.execSubR dest src1 src2 s
  | .subI dest src1 imm => Sys2Proof.Machine.execSubI dest src1 imm s
  | .rotlR dest src1 src2 => Sys2Proof.Machine.execRotlR dest src1 src2 s
  | .rotlI dest src1 imm => Sys2Proof.Machine.execRotlI dest src1 imm s
  | .rotrR dest src1 src2 => Sys2Proof.Machine.execRotrR dest src1 src2 s
  | .rotrI dest src1 imm => Sys2Proof.Machine.execRotrI dest src1 imm s
  | .shlR dest src1 src2 => Sys2Proof.Machine.execShlR dest src1 src2 s
  | .shlI dest src1 imm => Sys2Proof.Machine.execShlI dest src1 imm s
  | .shrR dest src1 src2 => Sys2Proof.Machine.execShrR dest src1 src2 s
  | .shrI dest src1 imm => Sys2Proof.Machine.execShrI dest src1 imm s
  | .ashrR dest src1 src2 => Sys2Proof.Machine.execAshrR dest src1 src2 s
  | .ashrI dest src1 imm => Sys2Proof.Machine.execAshrI dest src1 imm s
  | .cmpR src1 src2 => Sys2Proof.Machine.execCmpR src1 src2 s
  | .cmpI src1 imm => Sys2Proof.Machine.execCmpI src1 imm s
  | .moveR dest src => Sys2Proof.Machine.execMoveR dest src s
  | .moveI dest imm => Sys2Proof.Machine.execMoveI dest imm s
  | .moveToSrR src => Sys2Proof.Machine.execMoveToSrR src s
  | .moveToSrI imm => Sys2Proof.Machine.execMoveToSrI imm s
  | .moveFromSr dest => Sys2Proof.Machine.execMoveFromSr dest s
  | .loadbBase reg base offset => Sys2Proof.Machine.execLoadbBase reg base offset s
  | .loadbAbs reg addr => Sys2Proof.Machine.execLoadbAbs reg addr s
  | .storebBase reg base offset => Sys2Proof.Machine.execStorebBase reg base offset s
  | .storebAbs reg addr => Sys2Proof.Machine.execStorebAbs reg addr s
  | .loadhBase reg base offset => Sys2Proof.Machine.execLoadhBase reg base offset s
  | .loadhAbs reg addr => Sys2Proof.Machine.execLoadhAbs reg addr s
  | .storehBase reg base offset => Sys2Proof.Machine.execStorehBase reg base offset s
  | .storehAbs reg addr => Sys2Proof.Machine.execStorehAbs reg addr s
  | .loadBase reg base offset => Sys2Proof.Machine.execLoadBase reg base offset s
  | .loadAbs reg addr => Sys2Proof.Machine.execLoadAbs reg addr s
  | .storeBase reg base offset => Sys2Proof.Machine.execStoreBase reg base offset s
  | .storeAbs reg addr => Sys2Proof.Machine.execStoreAbs reg addr s
  | .pop reg => Sys2Proof.Machine.execPop reg s
  | .push reg => Sys2Proof.Machine.execPush reg s
  | .jpAddr cond addr => Sys2Proof.Machine.execJpAddr cond addr s
  | .jpReg cond reg => Sys2Proof.Machine.execJpReg cond reg s
  | .callAddr cond addr => Sys2Proof.Machine.execCallAddr cond addr s
  | .callReg cond reg => Sys2Proof.Machine.execCallReg cond reg s
  | .jr cond offset => Sys2Proof.Machine.execJr cond offset s
  | .ret cond => Sys2Proof.Machine.execRet cond s
  | .reti cond => Sys2Proof.Machine.execReti cond s
  | .retn cond => Sys2Proof.Machine.execRetn cond s
  | .halt cond => Sys2Proof.Machine.execHalt cond s

end Sys2Proof.Machine
end

