-- ==== Sys2Proof/Machine/Step.lean ====
section
/-! DEFINITION. One step of the processor (00_scope.md R11, 60_exceptions.md R236). -/

namespace Sys2Proof.Machine

open Sys2Proof Host

/-- The step. Halted, nothing changes (44_system.md R200). Otherwise the interrupt check comes first, and a step that
takes an interrupt does nothing else (R236); if none is taken, one instruction is fetched, decoded under the machine's
`OPCODE_MAP` (30_encoding.md R88) and run (R11). The address a decode fault carries (60_exceptions.md R248) is the pc.
DESIGN CHOICE (log 11): it is the pc unmasked where the masking treatment of a misaligned pc read the word at the aligned
address. -/
def step (s : State) : Host.Outcome State Fault Refusal :=
  if s.halted then .next s
  else
    match takenInterrupt s with
    | some level => finish (enterInterrupt s.passBoundary level)
    | none =>
      match fetch s.passBoundary with
      | .error f => .fault f
      | .ok (ir, t) =>
        match decode s.params.opcodeMap ir with
        | .error e => .fault (decodeFault e ir s.pc)
        | .ok i => exec i t

/-- The state whose next step runs the instruction with the bits `w`: it stands at the pc, the machine is not halted and
no interrupt is taken at the coming boundary. -/
def State.withFetchWord (s : State) (nbits w : Nat) : State := placeInstruction s (tableWord nbits w)

end Sys2Proof.Machine
end

