-- ==== Sys2Proof/Machine/Assembler.lean ====
section
/-! DEFINITION. The text form of programs as far as the spec gives it (45_assembler.md R210 to R225): from the text of a
program to the memory image it denotes. What no rule allows is refused with a reason (R223, 93 U19). -/

namespace Sys2Proof.Asm

open Sys2Proof Host

/-- A name: letters, digits and underscores (R216). -/
abbrev Name := List Char

/-- Why a text is refused. -/
inductive AsmError where
  /-- A character no rule uses, or a string without its closing quote. -/
  | badText
  /-- A line that is no line of R210 to R222. -/
  | badLine
  /-- A numeral that does not read in its base, or whose base is open and matters (R214). -/
  | badNumeral
  /-- A value that its field cannot hold (R215), or an address past the top of memory. -/
  | outOfRange
  /-- A name nothing defines (R216). -/
  | undefinedSymbol (name : Name)
  /-- A name defined twice, or two names that differ in case only (R210, 93 U19). -/
  | duplicateSymbol (name : Name)
  /-- Two regions share a byte, defined or reserved (R217, 93 U19). -/
  | overlap (addr : Nat)
  /-- An instruction or a DW at an address that is no multiple of 4 (20_memory.md R57, 93 U19). -/
  | misaligned (addr : Nat)
  deriving DecidableEq, Repr

/-- `ASM_DEFAULT_BASE`, which the spec leaves open (R214): the base of an unprefixed numeral, or none, and then a
numeral whose value depends on the base is refused. -/
inductive DefaultBase where
  | decimal
  | hexadecimal
  | unknown
  deriving DecidableEq, Repr

/-! ## Tokens (R210) -/

inductive Token where
  | word (cs : List Char)
  | str (cs : List Char)
  | comma
  | lpar
  | rpar
  | plus
  | minus
  | colon
  | percent
  deriving DecidableEq, Repr

/-- What a character is outside a string. -/
inductive CharClass where
  /-- Part of a name, a mnemonic or a numeral. -/
  | inWord
  | blank
  /-- A comment starts here. -/
  | comment
  /-- A string starts here. -/
  | quote
  | mark (t : Token)
  deriving DecidableEq, Repr

/-- The characters that are tokens by themselves. -/
def marks : List (Char × Token) :=
  [(',', .comma), ('(', .lpar), (')', .rpar), ('+', .plus), ('-', .minus), (':', .colon), ('%', .percent)]

def classify (c : Char) : Option CharClass :=
  if c.isAlphanum || c == '_' then some .inWord
  else if [' ', '\t', '\r'].contains c then some .blank
  else if c == ';' then some .comment
  else if c == '"' then some .quote
  else (marks.lookup c).map .mark

/-- Where the lexer is: between tokens, in a word or in a string (the characters so far, the last first). -/
inductive Mode where
  | between
  | word (rev : List Char)
  | string (rev : List Char)
  deriving DecidableEq, Repr

/-- The tokens of a line (R210). Indentation carries no meaning, and a comment runs to the end of the line. Three points are
DESIGN CHOICE (log 30), unsafe: R210 makes no exception for strings, yet a `;`, a `,` or any other character but the quote
inside a double-quoted string is a character of the string; R210 speaks of blank lines and indentation only, yet blanks
are dropped between any two tokens, inside an operand or a label too, as in `% D 100`, `- 5`, `( R1 + 4 )`, `MAIN :`; and
a blank is a space, a tab or a carriage return. -/
def lex (m : Mode) (cs : List Char) : Except AsmError (List Token) :=
  match cs, m with
  | [], .between => .ok []
  | [], .word rev => .ok [.word rev.reverse]
  | [], .string _ => .error .badText
  | c :: rest, .string rev =>
    if c == '"' then do return .str rev.reverse :: (← lex .between rest) else lex (.string (c :: rev)) rest
  | c :: rest, .between =>
    match classify c with
    | some .inWord => lex (.word [c]) rest
    | some .blank => lex .between rest
    | some .comment => .ok []
    | some .quote => lex (.string []) rest
    | some (.mark t) => do return t :: (← lex .between rest)
    | none => .error .badText
  | c :: rest, .word rev =>
    match classify c with
    | some .inWord => lex (.word (c :: rev)) rest
    | some .blank => do return .word rev.reverse :: (← lex .between rest)
    | some .comment => .ok [.word rev.reverse]
    | some (.mark t) => do return .word rev.reverse :: t :: (← lex .between rest)
    | some .quote => .error .badText
    | none => .error .badText

/-- The lines of a text. -/
def splitLines (cs : List Char) : List (List Char) :=
  match cs with
  | [] => [[]]
  | c :: rest =>
    if c == '\n' then [] :: splitLines rest
    else
      match splitLines rest with
      | [] => [[c]]
      | line :: lines => (c :: line) :: lines

/-! ## Numerals (R214) -/

/-- The sixteen digits; a hexadecimal digit may be written in either case, as in C (log 27). -/
def digitValue (c : Char) : Option Nat := "0123456789ABCDEF".toList.idxOf? c.toUpper

/-- The value of at least one digit in a base. -/
def digits (base : Nat) (cs : List Char) : Option Nat := do
  if cs.isEmpty then none
  else
    let ds ← cs.mapM digitValue
    if ds.all (· < base) then some (ds.foldl (fun acc x => base * acc + x) 0) else none

/-- The base a numeral without a prefix is read in: a `%D` or `%H` marker's, or the default's. -/
inductive Reading where
  | base (b : Nat)
  | byDefault (d : DefaultBase)
  deriving DecidableEq, Repr

/-- The value of digits that stand in a base, or why they are no numeral. -/
def digitsOr (base : Nat) (cs : List Char) : Except AsmError Nat :=
  match digits base cs with
  | some n => .ok n
  | none => .error .badNumeral

/-- A numeral: `0x` and hexadecimal digits, or digits in the base of the reading, the first of them 0 to 9 (R214). With no
base to read by, the two bases must agree on the value. DESIGN CHOICE (log 27): under `%D` a `0x` numeral is refused, since
R218 does not say which of the two bases holds. -/
def numeral (r : Reading) (cs : List Char) : Except AsmError Nat :=
  match cs with
  | [] => .error .badNumeral
  | '0' :: 'x' :: hex => if r = .base 10 then .error .badNumeral else digitsOr 16 hex
  | c :: rest =>
    let ds := c :: rest
    if !c.isDigit then .error .badNumeral
    else
      match r with
      | .base b => digitsOr b ds
      | .byDefault .decimal => digitsOr 10 ds
      | .byDefault .hexadecimal => digitsOr 16 ds
      | .byDefault .unknown => if digits 10 ds = digits 16 ds then digitsOr 10 ds else .error .badNumeral

/-! ## The words of the language (R212, R213, R224) -/

/-- A condition suffix; `Z` and `NZ` are aliases of `EQ` and `NE` (R212). -/
def condition (cs : List Char) : Option Cond :=
  if cs == "EQ".toList || cs == "Z".toList then some .eq
  else if cs == "NE".toList || cs == "NZ".toList then some .ne
  else if cs == "LT".toList then some .lt
  else if cs == "LE".toList then some .le
  else if cs == "GT".toList then some .gt
  else if cs == "GE".toList then some .ge
  else if cs == "ULT".toList then some .ult
  else if cs == "ULE".toList then some .ule
  else if cs == "UGT".toList then some .ugt
  else if cs == "UGE".toList then some .uge
  else if cs == "N".toList then some .n
  else if cs == "NN".toList then some .nn
  else if cs == "V".toList then some .v
  else if cs == "NV".toList then some .nv
  else none

/-- A mnemonic's name and, after an underscore, its suffix (R212). -/
def splitSuffix (cs : List Char) : List Char × Option (List Char) :=
  match cs with
  | [] => ([], none)
  | c :: rest =>
    if c == '_' then ([], some rest)
    else
      let (name, suffix) := splitSuffix rest
      (c :: name, suffix)

/-- The mnemonics without a condition (R224). -/
def plainMnemonics : List Name :=
  ["ADD", "SUB", "ADC", "CMP", "AND", "OR", "XOR", "SHL", "SHR", "ASHR", "ROTL", "ROTR", "MOVE", "LOAD", "STORE",
    "LOADH", "STOREH", "LOADB", "STOREB", "PUSH", "POP"].map String.toList

/-- The seven mnemonics that may take a condition (R212, R224). -/
def conditionalMnemonics : List Name := ["JP", "JR", "CALL", "RET", "HALT", "RETI", "RETN"].map String.toList

def isConditional (m : Name) : Bool := conditionalMnemonics.contains m

/-- A mnemonic, with its suffix where it has one. -/
def isMnemonic (cs : List Char) : Bool :=
  match splitSuffix cs with
  | (m, none) => plainMnemonics.contains m || isConditional m
  | (m, some suffix) => isConditional m && (condition suffix).isSome

/-- The size of an item of DW, DH, DB (R218 to R220). -/
def dataSize (cs : List Char) : Option Nat :=
  [("DW".toList, 4), ("DH".toList, 2), ("DB".toList, 1)].lookup cs

/-- The data directives, which a data label may precede (R216). -/
def isData (cs : List Char) : Bool := (dataSize cs).isSome || cs == "DS".toList

/-- The six directives (R224). -/
def isDirective (cs : List Char) : Bool := isData cs || cs == "ORG".toList || cs == "EQU".toList

/-- A register's name (R213). -/
def register (cs : List Char) : Option Reg :=
  [("R0".toList, Reg.r0), ("R1".toList, .r1), ("R2".toList, .r2), ("R3".toList, .r3), ("R4".toList, .r4),
    ("R5".toList, .r5), ("R6".toList, .r6), ("R7".toList, .r7)].lookup cs

/-- A name with its letters in upper case. -/
def upper (cs : List Char) : List Char := cs.map Char.toUpper

/-- The words of the language. The spec does not say whether case matters (R210), so a word that is one of them but for
its case is no name (93 U19). That no name is a word of the language is DESIGN CHOICE (log 27). -/
def isReserved (cs : List Char) : Bool :=
  let u := upper cs
  (register u).isSome || u == "SR".toList || isMnemonic u || isDirective u

/-- A name: a word that starts with no digit (R216; log 27) and is no word of the language. -/
def isName (cs : List Char) : Bool :=
  match cs with
  | [] => false
  | c :: _ => !c.isDigit && !isReserved cs

/-! ## Operands (R211, R213) -/

/-- A numeral or a symbol (R216: a symbol may be used wherever a numeral may). -/
inductive Value where
  | num (n : Nat)
  | sym (name : Name)
  deriving DecidableEq, Repr

inductive Operand where
  | reg (r : Reg)
  | sr
  | value (v : Value)
  /-- A numeral with a leading minus, for a negative immediate. DESIGN CHOICE (log 27): the source shows none, but R215
  admits negative values and the spec's own examples write them so. -/
  | negative (n : Nat)
  /-- `(Rb)` -/
  | inReg (r : Reg)
  /-- `(Rb+n)`, `(Rb-n)` -/
  | based (r : Reg) (minus : Bool) (v : Value)
  /-- `(n)`, `(SYMBOL)` -/
  | absolute (v : Value)
  deriving DecidableEq, Repr

/-- A symbol, or a numeral (a word that starts with a digit). -/
def value (r : Reading) (cs : List Char) : Except AsmError Value :=
  if isName cs then .ok (.sym cs)
  else if isReserved cs then .error .badLine
  else do return .num (← numeral r cs)

/-- One operand of an instruction. -/
def operand (d : DefaultBase) (ts : List Token) : Except AsmError Operand :=
  let r := Reading.byDefault d
  match ts with
  | [.word cs] =>
    match register cs with
    | some x => .ok (.reg x)
    | none => if cs == "SR".toList then .ok .sr else do return .value (← value r cs)
  | [.minus, .word cs] => do return .negative (← numeral r cs)
  | [.lpar, .word cs, .rpar] =>
    match register cs with
    | some x => .ok (.inReg x)
    | none => do return .absolute (← value r cs)
  | [.lpar, .word b, .plus, .word cs, .rpar] =>
    match register b with
    | some x => do return .based x false (← value r cs)
    | none => .error .badLine
  | [.lpar, .word b, .minus, .word cs, .rpar] =>
    match register b with
    | some x => do return .based x true (← value r cs)
    | none => .error .badLine
  | _ => .error .badLine

/-- The token lists between commas. -/
def splitCommas (ts : List Token) : List (List Token) :=
  match ts with
  | [] => [[]]
  | t :: rest =>
    if t = .comma then [] :: splitCommas rest
    else
      match splitCommas rest with
      | [] => [[t]]
      | item :: items => (t :: item) :: items

/-- The items of an operand list; no tokens are no operands. -/
def items (ts : List Token) : List (List Token) := if ts.isEmpty then [] else splitCommas ts

/-! ## Lines (R210, R216) -/

/-- An item of DW, DH, DB: a value, or in DB a string (R220). -/
inductive Datum where
  | value (v : Value)
  | text (cs : List Char)
  deriving DecidableEq, Repr

inductive Stmt where
  | instr (mnemonic : Name) (operands : List Operand)
  | org (v : Value)
  | ds (v : Value)
  /-- DW, DH, DB: the bytes of one item, and the items (R218 to R220). -/
  | data (size : Nat) (data : List Datum)
  | equ (name : Name) (v : Value)
  deriving DecidableEq, Repr

/-- A line: at most one label (R210), and what it labels. -/
structure Line where
  label : Option Name
  stmt : Option Stmt
  deriving DecidableEq, Repr

/-- The base a marker names: `%D`, `%H` (R214). -/
def marker (cs : List Char) : Option Nat :=
  if cs == ['D'] then some 10 else if cs == ['H'] then some 16 else none

/-- The items of a data directive, a base marker counting from its numeral on (R218). -/
def data (r : Reading) (ds : List (List Token)) : Except AsmError (List Datum) :=
  match ds with
  | [] => .ok []
  | item :: rest =>
    match item with
    | [.str cs] => do return .text cs :: (← data r rest)
    | [.word cs] => do return .value (← value r cs) :: (← data r rest)
    | [.percent, .word m, .word cs] =>
      match marker m with
      | some b => do return .value (.num (← numeral (.base b) cs)) :: (← data (.base b) rest)
      | none => .error .badLine
    | _ => .error .badLine

/-- The value of ORG or EQU (R217, R222): a numeral or a symbol, no base marker (R214). -/
def single (d : DefaultBase) (ts : List Token) : Except AsmError Value :=
  match ts with
  | [.word cs] => value (.byDefault d) cs
  | _ => .error .badLine

/-- A data directive and its operands (R218 to R221). DS is one (R216), so its numeral may have a base marker (R214). -/
def dataStmt (d : DefaultBase) (cs : List Char) (ts : List Token) : Except AsmError Stmt := do
  let ds ← data (.byDefault d) (items ts)
  match dataSize cs, ds with
  | some _, [] => .error .badLine
  | some n, ds => return .data n ds
  | none, [.value v] => return .ds v
  | none, _ => .error .badLine

/-- A mnemonic and its operands. -/
def instrStmt (d : DefaultBase) (ts : List Token) : Except AsmError Stmt :=
  match ts with
  | .word cs :: rest =>
    if isMnemonic cs then do return .instr cs (← (items rest).mapM (operand d)) else .error .badLine
  | _ => .error .badLine

/-- A line (R210, R216): a code label and its colon, alone or before an instruction; a data label before a data directive;
`NAME EQU value`; or an instruction or directive without a label. -/
def line (d : DefaultBase) (ts : List Token) : Except AsmError Line :=
  match ts with
  | [] => .ok { label := none, stmt := none }
  | .word cs :: .colon :: rest =>
    if !isName cs then .error .badLine
    else if rest.isEmpty then .ok { label := some cs, stmt := none }
    else do return { label := some cs, stmt := some (← instrStmt d rest) }
  | .word cs :: rest =>
    if isData cs then do return { label := none, stmt := some (← dataStmt d cs rest) }
    else if cs == "ORG".toList then do return { label := none, stmt := some (.org (← single d rest)) }
    else if isName cs then
      match rest with
      | .word dir :: args =>
        if isData dir then do return { label := some cs, stmt := some (← dataStmt d dir args) }
        else if dir == "EQU".toList then do return { label := none, stmt := some (.equ cs (← single d args)) }
        else .error .badLine
      | _ => .error .badLine
    else do return { label := none, stmt := some (← instrStmt d ts) }
  | _ => .error .badLine

/-! ## Symbols (R216, R222) -/

abbrev Symbols := List (Name × Nat)

def Value.eval (t : Symbols) : Value → Except AsmError Nat
  | .num n => .ok n
  | .sym name =>
    match t.lookup name with
    | some n => .ok n
    | none => .error (.undefinedSymbol name)

/-- How many bytes an item defines. -/
def Datum.size (n : Nat) : Datum → Nat
  | .value _ => n
  | .text cs => cs.length

/-- How many bytes a statement defines or reserves (R216 to R222). -/
def Stmt.size (t : Symbols) : Stmt → Except AsmError Nat
  | .instr _ _ => .ok 4
  | .data n items => .ok (items.map (Datum.size n)).sum
  | .ds v => v.eval t
  | .org _ => .ok 0
  | .equ _ _ => .ok 0

/-- Where ORG sets the location counter, wherever that stood before (R217). -/
def origin (t : Symbols) (v : Value) : Except AsmError Nat := do
  let n ← v.eval t
  if n < 2 ^ 32 then return n else .error .outOfRange

/-- The location counter after a statement that stands at `lc` (R216 to R222). -/
def advance (t : Symbols) (lc : Nat) (s : Option Stmt) : Except AsmError Nat :=
  match s with
  | none => .ok lc
  | some (.org v) => origin t v
  | some s => do return lc + (← s.size t)

/-- The names a program defines, in the order of its lines. -/
def names (ls : List Line) : List Name :=
  ls.flatMap (fun l =>
    l.label.toList ++
      match l.stmt with
      | some (.equ n _) => [n]
      | _ => [])

/-- The first name that a later one repeats, be it in another case (R210, 93 U19). -/
def firstDuplicate (ns : List Name) : Option Name :=
  match ns with
  | [] => none
  | n :: rest => if rest.any (fun m => upper m == upper n) then some n else firstDuplicate rest

/-- The location counter after a statement, where the symbols known so far settle it. ORG settles it even where it was not
settled before (R217). -/
def advanceSettled (known : Symbols) (lc : Option Nat) (s : Option Stmt) : Option Nat :=
  match s with
  | some (.org v) => (origin known v).toOption
  | s => lc.bind (fun a => (advance known a s).toOption)

/-- The definitions whose values the symbols known so far settle: a label is the location counter at its line (R216), an
EQU symbol the value given (R222). `lc` is the location counter, where it is settled. -/
def settled (known : Symbols) (lc : Option Nat) (ls : List Line) : Symbols :=
  match ls with
  | [] => []
  | l :: rest =>
    let label :=
      match l.label, lc with
      | some n, some a => [(n, a)]
      | _, _ => []
    let equ :=
      match l.stmt with
      | some (.equ n v) => ((v.eval known).toOption.map (fun x => (n, x))).toList
      | _ => []
    label ++ equ ++ settled known (advanceSettled known lc l.stmt) rest

/-- Every symbol of a program whose value its definitions settle, in whatever order they stand (R216, R222): what one
round settles, the next one knows. At most one round for each name is needed. -/
def resolve (rounds : Nat) (known : Symbols) (ls : List Line) : Symbols :=
  match rounds with
  | 0 => known
  | k + 1 =>
    let found := settled known (some 0) ls
    if found.length = known.length then known else resolve k found ls

/-! ## Instructions (R211, R212, R215) -/

/-- A value in the 20-bit field: -524,288 to 524,287, or an address the field's sign extension reaches (R215). -/
def field20 (v : Int) : Except AsmError Imm20 :=
  if (-524288 ≤ v ∧ v ≤ 524287) ∨ (0xFFF80000 ≤ v ∧ v ≤ 0xFFFFFFFF) then .ok (BitVec.ofInt 20 v)
  else .error .outOfRange

/-- JR's field: the target minus the address after the JR, modulo 2^32 as the jump adds it (R211, 43_control.md R183).
DESIGN CHOICE (log 27): R183 gives the target no range; one that is no 32-bit address, 0 to 2^32 - 1, is refused. -/
def relField (addr : Nat) (target : Int) : Except AsmError Imm20 :=
  let d := (BitVec.ofInt 32 (target - (addr + 4))).toInt
  if (0 ≤ target ∧ target < 2 ^ 32) ∧ -524288 ≤ d ∧ d ≤ 524287 then .ok (BitVec.ofInt 20 d) else .error .outOfRange

/-- The value of an operand that is a numeral or a symbol. -/
def Operand.number (t : Symbols) : Operand → Except AsmError Int
  | .value v => do return Int.ofNat (← v.eval t)
  | .negative n => .ok (-Int.ofNat n)
  | _ => .error .badLine

/-- An operand in the 20-bit field. -/
def immediate (t : Symbols) (o : Operand) : Except AsmError Imm20 := do field20 (← o.number t)

/-- The three-operand instructions' two forms, by mnemonic. -/
def aluForms (m : Name) : Option ((Reg → Reg → Reg → Instr) × (Reg → Reg → Imm20 → Instr)) :=
  if m == "ADD".toList then some (.addR, .addI)
  else if m == "SUB".toList then some (.subR, .subI)
  else if m == "ADC".toList then some (.adcR, .adcI)
  else if m == "AND".toList then some (.andR, .andI)
  else if m == "OR".toList then some (.orR, .orI)
  else if m == "XOR".toList then some (.xorR, .xorI)
  else if m == "SHL".toList then some (.shlR, .shlI)
  else if m == "SHR".toList then some (.shrR, .shrI)
  else if m == "ASHR".toList then some (.ashrR, .ashrI)
  else if m == "ROTL".toList then some (.rotlR, .rotlI)
  else if m == "ROTR".toList then some (.rotrR, .rotrI)
  else none

/-- The loads' and stores' two forms, by mnemonic. -/
def memForms (m : Name) : Option ((Reg → Reg → Imm20 → Instr) × (Reg → Imm20 → Instr)) :=
  if m == "LOAD".toList then some (.loadBase, .loadAbs)
  else if m == "STORE".toList then some (.storeBase, .storeAbs)
  else if m == "LOADH".toList then some (.loadhBase, .loadhAbs)
  else if m == "STOREH".toList then some (.storehBase, .storehAbs)
  else if m == "LOADB".toList then some (.loadbBase, .loadbAbs)
  else if m == "STOREB".toList then some (.storebBase, .storebAbs)
  else none

/-- A three-operand instruction: `src1, src2, dest` (R211). -/
def aluInstr (t : Symbols) (f : (Reg → Reg → Reg → Instr) × (Reg → Reg → Imm20 → Instr)) (ops : List Operand) :
    Except AsmError Instr :=
  match ops with
  | [.reg a, .reg b, .reg d] => .ok (f.1 d a b)
  | [.reg a, v, .reg d] => do return f.2 d a (← immediate t v)
  | _ => .error .badLine

/-- A load or store: the data register, then the address (R211). -/
def memInstr (t : Symbols) (f : (Reg → Reg → Imm20 → Instr) × (Reg → Imm20 → Instr)) (ops : List Operand) :
    Except AsmError Instr :=
  match ops with
  | [.reg r, .inReg b] => .ok (f.1 r b 0)
  | [.reg r, .based b minus v] => do
    let n := Int.ofNat (← v.eval t)
    return f.1 r b (← field20 (if minus then -n else n))
  | [.reg r, .absolute v] => do return f.2 r (← field20 (Int.ofNat (← v.eval t)))
  | _ => .error .badLine

/-- The instructions with operand lists of their own, no condition (R211). -/
def plainInstr (t : Symbols) (m : Name) (ops : List Operand) : Except AsmError Instr :=
  match aluForms m, memForms m with
  | some f, _ => aluInstr t f ops
  | none, some f => memInstr t f ops
  | none, none =>
    if m == "CMP".toList then
      match ops with
      | [.reg a, .reg b] => .ok (.cmpR a b)
      | [.reg a, v] => do return .cmpI a (← immediate t v)
      | _ => .error .badLine
    else if m == "MOVE".toList then
      match ops with
      | [.reg a, .reg d] => .ok (.moveR d a)
      | [.reg a, .sr] => .ok (.moveToSrR a)
      | [.sr, .reg d] => .ok (.moveFromSr d)
      | [v, .reg d] => do return .moveI d (← immediate t v)
      | [v, .sr] => do return .moveToSrI (← immediate t v)
      | _ => .error .badLine
    else if m == "PUSH".toList then
      match ops with
      | [.reg r] => .ok (.push r)
      | _ => .error .badLine
    else if m == "POP".toList then
      match ops with
      | [.reg r] => .ok (.pop r)
      | _ => .error .badLine
    else .error .badLine

/-- The seven mnemonics that may take a condition (R212, R224). -/
def condInstr (t : Symbols) (addr : Nat) (m : Name) (c : Cond) (ops : List Operand) : Except AsmError Instr :=
  if m == "JP".toList then
    match ops with
    | [.inReg r] => .ok (.jpReg c r)
    | [v] => do return .jpAddr c (← immediate t v)
    | _ => .error .badLine
  else if m == "CALL".toList then
    match ops with
    | [.inReg r] => .ok (.callReg c r)
    | [v] => do return .callAddr c (← immediate t v)
    | _ => .error .badLine
  else if m == "JR".toList then
    match ops with
    | [v] => do return .jr c (← relField addr (← v.number t))
    | _ => .error .badLine
  else if !ops.isEmpty then .error .badLine
  else if m == "RET".toList then .ok (.ret c)
  else if m == "RETI".toList then .ok (.reti c)
  else if m == "RETN".toList then .ok (.retn c)
  else if m == "HALT".toList then .ok (.halt c)
  else .error .badLine

/-- The instruction a line at `addr` denotes (R211, R212, R224). -/
def instruction (t : Symbols) (addr : Nat) (mnemonic : Name) (ops : List Operand) : Except AsmError Instr :=
  match splitSuffix mnemonic with
  | (m, none) => if isConditional m then condInstr t addr m .always ops else plainInstr t m ops
  | (m, some suffix) =>
    match condition suffix with
    | some c => if isConditional m then condInstr t addr m c ops else .error .badLine
    | none => .error .badLine

/-! ## The image (R216 to R221) -/

/-- The low `n` bytes of a value, the least significant first (20_memory.md R51). -/
def littleEndian (n v : Nat) : List Byte := (List.range n).map (fun k => BitVec.ofNat 8 (v / 256 ^ k))

/-- The bytes of an item; a value must fit its size, a character must be ASCII (R218 to R220). -/
def Datum.bytes (t : Symbols) (n : Nat) : Datum → Except AsmError (List Byte)
  | .value v => do
    let x ← v.eval t
    if x < 256 ^ n then return littleEndian n x else .error .outOfRange
  | .text cs =>
    if n ≠ 1 then .error .badLine
    else if cs.all (fun c => c.toNat < 128) then .ok (cs.map (fun c => BitVec.ofNat 8 c.toNat))
    else .error .badText

/-- The bytes a statement at `lc` defines. ORG, DS and EQU define none, but what they name must be defined. A misaligned DW
is refused (93 U19). DESIGN CHOICE (log 30), unsafe: R219 does not say whether DH needs or makes an even location counter;
here it does neither, and a DH at an odd address defines its bytes there. -/
def Stmt.bytes (m : Config.OpcodeMap) (t : Symbols) (lc : Nat) : Stmt → Except AsmError (List Byte)
  | .instr name ops =>
    if lc % 4 ≠ 0 then .error (.misaligned lc)
    else do
      let w := encode m (← instruction t lc name ops)
      return (List.range 4).map (byteOfWord w)
  | .data n items =>
    if n = 4 ∧ lc % 4 ≠ 0 then .error (.misaligned lc)
    else do return (← items.mapM (Datum.bytes t n)).flatten
  | .org _ => .ok []
  | .ds _ => .ok []
  | .equ _ v => do
    let _ ← v.eval t
    return []

/-- The addresses a statement takes, and the bytes it defines from the first of them on. -/
structure Chunk where
  first : Nat
  size : Nat
  bytes : List Byte
  deriving DecidableEq, Repr

/-- What a line at `lc` takes; nothing of it may stand past the top of memory. -/
def chunk (m : Config.OpcodeMap) (t : Symbols) (lc : Nat) (l : Line) : Except AsmError Chunk :=
  if l.label.isSome ∧ 2 ^ 32 ≤ lc then .error .outOfRange
  else
    match l.stmt with
    | none => .ok { first := lc, size := 0, bytes := [] }
    | some s => do
      let n ← s.size t
      if 2 ^ 32 < lc + n then .error .outOfRange
      else return { first := lc, size := n, bytes := ← s.bytes m t lc }

/-- The last pass: what each line takes, from the location counter at 0 on (log 27). -/
def chunks (m : Config.OpcodeMap) (t : Symbols) (lc : Nat) (ls : List Line) : Except AsmError (List Chunk) :=
  match ls with
  | [] => .ok []
  | l :: rest => do
    let c ← chunk m t lc l
    return c :: (← chunks m t (← advance t lc l.stmt) rest)

/-- Two chunks share an address. -/
def Chunk.meets (c d : Chunk) : Bool :=
  decide (max c.first d.first < min (c.first + c.size) (d.first + d.size))

/-- The first address that two chunks share, reserved bytes counted like defined ones (R217, 93 U19). -/
def firstOverlap (cs : List Chunk) : Option Nat :=
  match cs with
  | [] => none
  | c :: rest =>
    match rest.find? c.meets with
    | some d => some (max c.first d.first)
    | none => firstOverlap rest

/-- The cells a chunk defines. -/
def Chunk.cells (c : Chunk) : List Cell := c.bytes.zipIdx.map (fun b => (c.first + b.2, b.1))

/-- The memory image a program text denotes under an opcode map (R216), or why it is refused. -/
def assemble (m : Config.OpcodeMap) (d : DefaultBase) (text : List Char) : Except AsmError (List Cell) := do
  let ls ← (splitLines text).mapM (fun cs => do line d (← lex .between cs))
  match firstDuplicate (names ls) with
  | some n => .error (.duplicateSymbol n)
  | none =>
    let cs ← chunks m (resolve (names ls).length [] ls) 0 ls
    match firstOverlap cs with
    | some a => .error (.overlap a)
    | none => return cs.flatMap Chunk.cells

end Sys2Proof.Asm
end

