-- ==== Sys2Proof/Machine/OpcodeTable.lean ====
section
/-! DEFINITION. The rows of spec/opcode_table.json: for each instruction and form the bits its words fix and their values
(30_encoding.md R97). The decoder does not read this table; the claims about encodings hold the two side by side. -/

namespace Sys2Proof

/-- A row: a word is the row's when its bits under `mask` are `pattern` and, where the row has a condition field (bits
25:22), that field is not 1111. -/
structure Row where
  pattern : Word
  mask : Word
  hasCond : Bool
  deriving DecidableEq, Repr

/-- The row an instruction belongs to. -/
def rowOf : Instr → Row
  | .orR _ _ _ => ⟨0x08000000#32, 0xFC01FFFF#32, false⟩
  | .orI _ _ _ => ⟨0x0C000000#32, 0xFC000000#32, false⟩
  | .andR _ _ _ => ⟨0x10000000#32, 0xFC01FFFF#32, false⟩
  | .andI _ _ _ => ⟨0x14000000#32, 0xFC000000#32, false⟩
  | .xorR _ _ _ => ⟨0x18000000#32, 0xFC01FFFF#32, false⟩
  | .xorI _ _ _ => ⟨0x1C000000#32, 0xFC000000#32, false⟩
  | .addR _ _ _ => ⟨0x20000000#32, 0xFC01FFFF#32, false⟩
  | .addI _ _ _ => ⟨0x24000000#32, 0xFC000000#32, false⟩
  | .adcR _ _ _ => ⟨0x28000000#32, 0xFC01FFFF#32, false⟩
  | .adcI _ _ _ => ⟨0x2C000000#32, 0xFC000000#32, false⟩
  | .subR _ _ _ => ⟨0x30000000#32, 0xFC01FFFF#32, false⟩
  | .subI _ _ _ => ⟨0x34000000#32, 0xFC000000#32, false⟩
  | .rotlR _ _ _ => ⟨0x40000000#32, 0xFC01FFFF#32, false⟩
  | .rotlI _ _ _ => ⟨0x44000000#32, 0xFC000000#32, false⟩
  | .rotrR _ _ _ => ⟨0x48000000#32, 0xFC01FFFF#32, false⟩
  | .rotrI _ _ _ => ⟨0x4C000000#32, 0xFC000000#32, false⟩
  | .shlR _ _ _ => ⟨0x50000000#32, 0xFC01FFFF#32, false⟩
  | .shlI _ _ _ => ⟨0x54000000#32, 0xFC000000#32, false⟩
  | .shrR _ _ _ => ⟨0x58000000#32, 0xFC01FFFF#32, false⟩
  | .shrI _ _ _ => ⟨0x5C000000#32, 0xFC000000#32, false⟩
  | .ashrR _ _ _ => ⟨0x60000000#32, 0xFC01FFFF#32, false⟩
  | .ashrI _ _ _ => ⟨0x64000000#32, 0xFC000000#32, false⟩
  | .cmpR _ _ => ⟨0x68000000#32, 0xFF81FFFF#32, false⟩
  | .cmpI _ _ => ⟨0x6C000000#32, 0xFF800000#32, false⟩
  | .moveR _ _ => ⟨0x00000000#32, 0xFC71FFFF#32, false⟩
  | .moveI _ _ => ⟨0x04000000#32, 0xFC700000#32, false⟩
  | .moveToSrR _ => ⟨0x00100000#32, 0xFFF1FFFF#32, false⟩
  | .moveToSrI _ => ⟨0x04100000#32, 0xFFF00000#32, false⟩
  | .moveFromSr _ => ⟨0x00200000#32, 0xFC7FFFFF#32, false⟩
  | .loadbBase _ _ _ => ⟨0x90000000#32, 0xFC000000#32, false⟩
  | .loadbAbs _ _ => ⟨0x94000000#32, 0xFC700000#32, false⟩
  | .storebBase _ _ _ => ⟨0x98000000#32, 0xFC000000#32, false⟩
  | .storebAbs _ _ => ⟨0x9C000000#32, 0xFC700000#32, false⟩
  | .loadhBase _ _ _ => ⟨0xA0000000#32, 0xFC000000#32, false⟩
  | .loadhAbs _ _ => ⟨0xA4000000#32, 0xFC700000#32, false⟩
  | .storehBase _ _ _ => ⟨0xA8000000#32, 0xFC000000#32, false⟩
  | .storehAbs _ _ => ⟨0xAC000000#32, 0xFC700000#32, false⟩
  | .loadBase _ _ _ => ⟨0xB0000000#32, 0xFC000000#32, false⟩
  | .loadAbs _ _ => ⟨0xB4000000#32, 0xFC700000#32, false⟩
  | .storeBase _ _ _ => ⟨0xB8000000#32, 0xFC000000#32, false⟩
  | .storeAbs _ _ => ⟨0xBC000000#32, 0xFC700000#32, false⟩
  | .pop _ => ⟨0x80000000#32, 0xFC7FFFFF#32, false⟩
  | .push _ => ⟨0x88000000#32, 0xFC7FFFFF#32, false⟩
  | .jpAddr _ _ => ⟨0xC0000000#32, 0xFC300000#32, true⟩
  | .jpReg _ _ => ⟨0xC4000000#32, 0xFC31FFFF#32, true⟩
  | .callAddr _ _ => ⟨0xC8000000#32, 0xFC300000#32, true⟩
  | .callReg _ _ => ⟨0xCC000000#32, 0xFC31FFFF#32, true⟩
  | .jr _ _ => ⟨0xD0000000#32, 0xFC300000#32, true⟩
  | .ret _ => ⟨0xD8000000#32, 0xFC3FFFFF#32, true⟩
  | .reti _ => ⟨0xD8000001#32, 0xFC3FFFFF#32, true⟩
  | .retn _ => ⟨0xD8000003#32, 0xFC3FFFFF#32, true⟩
  | .halt _ => ⟨0xF8000000#32, 0xFC3FFFFF#32, true⟩

/-- Every row, in the table's order. -/
def opcodeRows : List Row :=
  [⟨0x08000000#32, 0xFC01FFFF#32, false⟩,
   ⟨0x0C000000#32, 0xFC000000#32, false⟩,
   ⟨0x10000000#32, 0xFC01FFFF#32, false⟩,
   ⟨0x14000000#32, 0xFC000000#32, false⟩,
   ⟨0x18000000#32, 0xFC01FFFF#32, false⟩,
   ⟨0x1C000000#32, 0xFC000000#32, false⟩,
   ⟨0x20000000#32, 0xFC01FFFF#32, false⟩,
   ⟨0x24000000#32, 0xFC000000#32, false⟩,
   ⟨0x28000000#32, 0xFC01FFFF#32, false⟩,
   ⟨0x2C000000#32, 0xFC000000#32, false⟩,
   ⟨0x30000000#32, 0xFC01FFFF#32, false⟩,
   ⟨0x34000000#32, 0xFC000000#32, false⟩,
   ⟨0x40000000#32, 0xFC01FFFF#32, false⟩,
   ⟨0x44000000#32, 0xFC000000#32, false⟩,
   ⟨0x48000000#32, 0xFC01FFFF#32, false⟩,
   ⟨0x4C000000#32, 0xFC000000#32, false⟩,
   ⟨0x50000000#32, 0xFC01FFFF#32, false⟩,
   ⟨0x54000000#32, 0xFC000000#32, false⟩,
   ⟨0x58000000#32, 0xFC01FFFF#32, false⟩,
   ⟨0x5C000000#32, 0xFC000000#32, false⟩,
   ⟨0x60000000#32, 0xFC01FFFF#32, false⟩,
   ⟨0x64000000#32, 0xFC000000#32, false⟩,
   ⟨0x68000000#32, 0xFF81FFFF#32, false⟩,
   ⟨0x6C000000#32, 0xFF800000#32, false⟩,
   ⟨0x00000000#32, 0xFC71FFFF#32, false⟩,
   ⟨0x04000000#32, 0xFC700000#32, false⟩]
  ++ [⟨0x00100000#32, 0xFFF1FFFF#32, false⟩,
   ⟨0x04100000#32, 0xFFF00000#32, false⟩,
   ⟨0x00200000#32, 0xFC7FFFFF#32, false⟩,
   ⟨0x90000000#32, 0xFC000000#32, false⟩,
   ⟨0x94000000#32, 0xFC700000#32, false⟩,
   ⟨0x98000000#32, 0xFC000000#32, false⟩,
   ⟨0x9C000000#32, 0xFC700000#32, false⟩,
   ⟨0xA0000000#32, 0xFC000000#32, false⟩,
   ⟨0xA4000000#32, 0xFC700000#32, false⟩,
   ⟨0xA8000000#32, 0xFC000000#32, false⟩,
   ⟨0xAC000000#32, 0xFC700000#32, false⟩,
   ⟨0xB0000000#32, 0xFC000000#32, false⟩,
   ⟨0xB4000000#32, 0xFC700000#32, false⟩,
   ⟨0xB8000000#32, 0xFC000000#32, false⟩,
   ⟨0xBC000000#32, 0xFC700000#32, false⟩,
   ⟨0x80000000#32, 0xFC7FFFFF#32, false⟩,
   ⟨0x88000000#32, 0xFC7FFFFF#32, false⟩,
   ⟨0xC0000000#32, 0xFC300000#32, true⟩,
   ⟨0xC4000000#32, 0xFC31FFFF#32, true⟩,
   ⟨0xC8000000#32, 0xFC300000#32, true⟩,
   ⟨0xCC000000#32, 0xFC31FFFF#32, true⟩,
   ⟨0xD0000000#32, 0xFC300000#32, true⟩,
   ⟨0xD8000000#32, 0xFC3FFFFF#32, true⟩,
   ⟨0xD8000001#32, 0xFC3FFFFF#32, true⟩,
   ⟨0xD8000003#32, 0xFC3FFFFF#32, true⟩,
   ⟨0xF8000000#32, 0xFC3FFFFF#32, true⟩]

/-- A word is one of a row's. -/
def Row.holds (r : Row) (w : Word) : Prop :=
  w &&& r.mask = r.pattern ∧ (r.hasCond = true → w.extractLsb' 22 4 ≠ 0b1111#4)

end Sys2Proof
end

