-- ==== Sys2Proof/Machine/Platform.lean ====
section
/-! DEFINITION. What stands around the processor: the loaded image and the start of a run (70_reset_and_hazards.md R271,
R279), the address-space figure and the fixed addresses (20_memory.md R61 to R63), and the registers of the two devices
the spec names (60_exceptions.md R252, R253). The devices' behaviour is not in the spec: their registers lie in
`IO_REGION` and are the environment's (R254). -/

namespace Sys2Proof.Machine

open Sys2Proof Host

/-- Memory with the bytes of an image defined (R271). DESIGN CHOICE (log 22): of two cells for one address the later
counts. -/
def Memory.ofImage (image : List Cell) : Memory :=
  image.foldl (fun m cell => m.write cell.1 cell.2) []

/-- The start of a run (R279): the reset state under the parameters, `RESET_STATE` among them (00_scope.md R7), with the
loaded image and the environment's lines. -/
def boot (params : Config.Params) (image : List Cell) (lines : Lines) : State :=
  ({ State.reset with params := params, mem := Memory.ofImage image, lines := lines } : State).applyReset

/-- Reset of a running or halted machine (44_system.md R200, 70_reset_and_hazards.md R270): the values of R270 under
the machine's `RESET_STATE`, the environment's record and the draws going on. The general registers keep what they hold, which R270 leaves
unspecified. -/
def resetAgain (image : List Cell) (s : State) : State :=
  ({ s with mem := Memory.ofImage image } : State).applyReset

/-- The regions of the address-space figure (20_memory.md R61), a software layout. -/
inductive Layout where
  | programMemory
  | dataMemory
  | heap
  | stackMemory
  | devices
  deriving DecidableEq, Repr

/-- The first and last address of a region of the figure (R61). -/
def Layout.bounds : Layout → Nat × Nat
  | .programMemory => (0x00000000, 0x00000FFF)
  | .dataMemory => (0x00001000, 0x0000FFFF)
  | .heap => (0x00010000, 0x3FFEFFFF)
  | .stackMemory => (0x3FFF0000, 0x3FFFFFFF)
  | .devices => (0x40000000, 0xFFFFFFFF)

/-- The INT0 vector word's address (20_memory.md R62). -/
def int0VectorAddress : Word := 0x00000008#32

/-- The recommended initial stack pointer; nothing in the hardware reads it (20_memory.md R63). -/
def recommendedSp : Word := 0x00040000#32

/-- The device registers of R252 (GPIO) and R253 (Counter/Timer). -/
inductive DeviceReg where
  | pioc | piod | pioiack | pioiend
  | ctcr | ctlr | ctiack | ctiend
  deriving DecidableEq, Repr

/-- Where a device register is (R252, R253). -/
def DeviceReg.address : DeviceReg → Word
  | .pioc => 0xFFFF0000#32
  | .piod => 0xFFFF0004#32
  | .pioiack => 0xFFFF0008#32
  | .pioiend => 0xFFFF000C#32
  | .ctcr => 0xFFFF1000#32
  | .ctlr => 0xFFFF1004#32
  | .ctiack => 0xFFFF1008#32
  | .ctiend => 0xFFFF100C#32

end Sys2Proof.Machine
end

