-- ==== Sys2Proof/Safety.lean ====
section
/-! DEFINITION. The terms claims are made in: the invariant of memory, what stands where, what a step leaves alone, what
the spec lets each instruction write, the duties of software, and how a run ends. -/

namespace Sys2Proof.Machine

open Sys2Proof Host

/-! ## The invariant -/

/-- Memory is in canonical form and lists bytes of plain memory only (10_state.md R38). -/
abbrev State.Inv (s : State) : Prop :=
  s.mem.wf = true ∧ ∀ c ∈ s.mem, c.1 < 2 ^ 32 ∧ regionAt s.params.memMap c.1 = some .plain

/-! ## What stands where -/

/-- The access at an address is answered by plain memory. -/
abbrev PlainAt (s : State) (addr : Word) (w : Width) : Prop :=
  accessKind s.params.memMap (align addr w) w = some .plain

/-- The access at an address is answered by the environment. -/
abbrev IoAt (s : State) (addr : Word) (w : Width) : Prop :=
  accessKind s.params.memMap (align addr w) w = some .io

/-- The access at an address touches an unpopulated address. -/
abbrev UnmappedAt (s : State) (addr : Word) (w : Width) : Prop :=
  accessKind s.params.memMap (align addr w) w = none

/-- The bytes an access at an address touches hold the low bytes of `v`, little-endian (20_memory.md R51, R54). -/
abbrev StoredAt (s : State) (addr : Word) (w : Width) (v : Word) : Prop :=
  ∀ k < w.bytes, s.mem.read ((align addr w).toNat + k) = some (byteOfWord v k)

/-- A condition's test passes (30_encoding.md R92). -/
abbrev Holds (c : Cond) (s : State) : Prop := condHolds c s.sr = some true

/-- The check of 60_exceptions.md R236 takes no interrupt at the coming boundary. -/
abbrev Quiet (s : State) : Prop :=
  ¬ (s.sample.nmi = true ∧ s.iif = true) ∧ ¬ (s.sample.int0 = true ∧ s.sr.gie = true)

/-! ## What a step leaves alone -/

/-- Every byte of memory reads as before. -/
def SameMemory (s t : State) : Prop := ∀ a : Nat, t.mem.read a = s.mem.read a

/-- Every byte of memory outside those an access at `addr` touches reads as before. -/
def SameMemoryBut (s t : State) (addr : Word) (w : Width) : Prop :=
  ∀ a : Nat, a < (align addr w).toNat ∨ (align addr w).toNat + w.bytes ≤ a → t.mem.read a = s.mem.read a

/-- Every register reads as before. -/
def SameRegs (s t : State) : Prop := ∀ r : Reg, t.reg r = s.reg r

/-- Every register but one reads as before. -/
def SameRegsBut (s t : State) (d : Reg) : Prop := ∀ r : Reg, r ≠ d → t.reg r = s.reg r

/-- Every register but two reads as before. -/
def SameRegsBut2 (s t : State) (d e : Reg) : Prop := ∀ r : Reg, r ≠ d → r ≠ e → t.reg r = s.reg r

/-- IIF, the halted flag, the lines to come and the parameters are as before. -/
def SameControl (s t : State) : Prop :=
  t.iif = s.iif ∧ t.halted = s.halted ∧ t.lines = s.lines ∧ t.params = s.params

/-- The frame of an instruction that writes one register and the flags: the other registers, GIE, the pc, memory, the
record of device accesses and the control state are as before. -/
def AluFrame (s t : State) (d : Reg) : Prop :=
  SameRegsBut s t d ∧ t.sr.gie = s.sr.gie ∧ t.pc = s.pc ∧ SameMemory s t ∧ t.io = s.io ∧ SameControl s t

/-! ## What the spec lets each instruction write -/

/-- The instructions that write a bit of SR (10_state.md R30). -/
def writesSr : Instr → Bool
  | .orR _ _ _ => true
  | .orI _ _ _ => true
  | .andR _ _ _ => true
  | .andI _ _ _ => true
  | .xorR _ _ _ => true
  | .xorI _ _ _ => true
  | .addR _ _ _ => true
  | .addI _ _ _ => true
  | .adcR _ _ _ => true
  | .adcI _ _ _ => true
  | .subR _ _ _ => true
  | .subI _ _ _ => true
  | .rotlR _ _ _ => true
  | .rotlI _ _ _ => true
  | .rotrR _ _ _ => true
  | .rotrI _ _ _ => true
  | .shlR _ _ _ => true
  | .shlI _ _ _ => true
  | .shrR _ _ _ => true
  | .shrI _ _ _ => true
  | .ashrR _ _ _ => true
  | .ashrI _ _ _ => true
  | .cmpR _ _ => true
  | .cmpI _ _ => true
  | .moveR _ _ => false
  | .moveI _ _ => false
  | .moveToSrR _ => true
  | .moveToSrI _ => true
  | .moveFromSr _ => false
  | .loadbBase _ _ _ => false
  | .loadbAbs _ _ => false
  | .storebBase _ _ _ => false
  | .storebAbs _ _ => false
  | .loadhBase _ _ _ => false
  | .loadhAbs _ _ => false
  | .storehBase _ _ _ => false
  | .storehAbs _ _ => false
  | .loadBase _ _ _ => false
  | .loadAbs _ _ => false
  | .storeBase _ _ _ => false
  | .storeAbs _ _ => false
  | .pop _ => false
  | .push _ => false
  | .jpAddr _ _ => false
  | .jpReg _ _ => false
  | .callAddr _ _ => false
  | .callReg _ _ => false
  | .jr _ _ => false
  | .ret _ => false
  | .reti _ => true
  | .retn _ => false
  | .halt _ => false

/-- The instructions that write GIE (10_state.md R32). -/
def writesGie (i : Instr) : Prop :=
  (∃ r, i = .moveToSrR r) ∨ (∃ v, i = .moveToSrI v) ∨ (∃ c, i = .reti c)

/-- The registers an instruction may write: its destination (10_state.md R23), and R7 where it is used implicitly
(R22). -/
def writtenRegs : Instr → List Reg
  | .orR d _ _ => [d]
  | .orI d _ _ => [d]
  | .andR d _ _ => [d]
  | .andI d _ _ => [d]
  | .xorR d _ _ => [d]
  | .xorI d _ _ => [d]
  | .addR d _ _ => [d]
  | .addI d _ _ => [d]
  | .adcR d _ _ => [d]
  | .adcI d _ _ => [d]
  | .subR d _ _ => [d]
  | .subI d _ _ => [d]
  | .rotlR d _ _ => [d]
  | .rotlI d _ _ => [d]
  | .rotrR d _ _ => [d]
  | .rotrI d _ _ => [d]
  | .shlR d _ _ => [d]
  | .shlI d _ _ => [d]
  | .shrR d _ _ => [d]
  | .shrI d _ _ => [d]
  | .ashrR d _ _ => [d]
  | .ashrI d _ _ => [d]
  | .cmpR _ _ => []
  | .cmpI _ _ => []
  | .moveR d _ => [d]
  | .moveI d _ => [d]
  | .moveToSrR _ => []
  | .moveToSrI _ => []
  | .moveFromSr d => [d]
  | .loadbBase r _ _ => [r]
  | .loadbAbs r _ => [r]
  | .storebBase _ _ _ => []
  | .storebAbs _ _ => []
  | .loadhBase r _ _ => [r]
  | .loadhAbs r _ => [r]
  | .storehBase _ _ _ => []
  | .storehAbs _ _ => []
  | .loadBase r _ _ => [r]
  | .loadAbs r _ => [r]
  | .storeBase _ _ _ => []
  | .storeAbs _ _ => []
  | .pop r => [r, .r7]
  | .push _ => [.r7]
  | .jpAddr _ _ => []
  | .jpReg _ _ => []
  | .callAddr _ _ => [.r7]
  | .callReg _ _ => [.r7]
  | .jr _ _ => []
  | .ret _ => [.r7]
  | .reti _ => [.r7]
  | .retn _ => [.r7]
  | .halt _ => []

/-- The control transfers, which alone write the pc beyond the increment (10_state.md R25). -/
def writesPc : Instr → Bool
  | .orR _ _ _ => false
  | .orI _ _ _ => false
  | .andR _ _ _ => false
  | .andI _ _ _ => false
  | .xorR _ _ _ => false
  | .xorI _ _ _ => false
  | .addR _ _ _ => false
  | .addI _ _ _ => false
  | .adcR _ _ _ => false
  | .adcI _ _ _ => false
  | .subR _ _ _ => false
  | .subI _ _ _ => false
  | .rotlR _ _ _ => false
  | .rotlI _ _ _ => false
  | .rotrR _ _ _ => false
  | .rotrI _ _ _ => false
  | .shlR _ _ _ => false
  | .shlI _ _ _ => false
  | .shrR _ _ _ => false
  | .shrI _ _ _ => false
  | .ashrR _ _ _ => false
  | .ashrI _ _ _ => false
  | .cmpR _ _ => false
  | .cmpI _ _ => false
  | .moveR _ _ => false
  | .moveI _ _ => false
  | .moveToSrR _ => false
  | .moveToSrI _ => false
  | .moveFromSr _ => false
  | .loadbBase _ _ _ => false
  | .loadbAbs _ _ => false
  | .storebBase _ _ _ => false
  | .storebAbs _ _ => false
  | .loadhBase _ _ _ => false
  | .loadhAbs _ _ => false
  | .storehBase _ _ _ => false
  | .storehAbs _ _ => false
  | .loadBase _ _ _ => false
  | .loadAbs _ _ => false
  | .storeBase _ _ _ => false
  | .storeAbs _ _ => false
  | .pop _ => false
  | .push _ => false
  | .jpAddr _ _ => true
  | .jpReg _ _ => true
  | .callAddr _ _ => true
  | .callReg _ _ => true
  | .jr _ _ => true
  | .ret _ => true
  | .reti _ => true
  | .retn _ => true
  | .halt _ => false

/-- Where an instruction stores, and how much; none for those that store nothing (20_memory.md R58). A conditional CALL
whose test fails stores nothing. -/
def storeTarget (i : Instr) (s : State) : Option (Word × Width) :=
  match i with
  | .orR _ _ _ => none
  | .orI _ _ _ => none
  | .andR _ _ _ => none
  | .andI _ _ _ => none
  | .xorR _ _ _ => none
  | .xorI _ _ _ => none
  | .addR _ _ _ => none
  | .addI _ _ _ => none
  | .adcR _ _ _ => none
  | .adcI _ _ _ => none
  | .subR _ _ _ => none
  | .subI _ _ _ => none
  | .rotlR _ _ _ => none
  | .rotlI _ _ _ => none
  | .rotrR _ _ _ => none
  | .rotrI _ _ _ => none
  | .shlR _ _ _ => none
  | .shlI _ _ _ => none
  | .shrR _ _ _ => none
  | .shrI _ _ _ => none
  | .ashrR _ _ _ => none
  | .ashrI _ _ _ => none
  | .cmpR _ _ => none
  | .cmpI _ _ => none
  | .moveR _ _ => none
  | .moveI _ _ => none
  | .moveToSrR _ => none
  | .moveToSrI _ => none
  | .moveFromSr _ => none
  | .loadbBase _ _ _ => none
  | .loadbAbs _ _ => none
  | .storebBase _ b o => some (baseAddress s b o, .byte)
  | .storebAbs _ a => some (absAddress a, .byte)
  | .loadhBase _ _ _ => none
  | .loadhAbs _ _ => none
  | .storehBase _ b o => some (baseAddress s b o, .half)
  | .storehAbs _ a => some (absAddress a, .half)
  | .loadBase _ _ _ => none
  | .loadAbs _ _ => none
  | .storeBase _ b o => some (baseAddress s b o, .word)
  | .storeAbs _ a => some (absAddress a, .word)
  | .pop _ => none
  | .push _ => some (s.reg .r7 - 4#32, .word)
  | .jpAddr _ _ => none
  | .jpReg _ _ => none
  | .callAddr c _ => if condHolds c s.sr = some true then some (s.reg .r7 - 4#32, .word) else none
  | .callReg c _ => if condHolds c s.sr = some true then some (s.reg .r7 - 4#32, .word) else none
  | .jr _ _ => none
  | .ret _ => none
  | .reti _ => none
  | .retn _ => none
  | .halt _ => none

/-! ## The duties of software (70_reset_and_hazards.md R272, R273, R277) -/

/-- R7 is a multiple of 4 and the next push lands in plain memory (R272). -/
abbrev StackReady (s : State) : Prop :=
  s.reg .r7 &&& 3#32 = 0#32 ∧ PlainAt s (s.reg .r7 - 4#32) .word

/-- The word at address 8 is defined and is a word-aligned handler address (R273). -/
def VectorReady (s : State) : Prop :=
  PlainAt s int0VectorAddress .word ∧ ∃ h, StoredAt s int0VectorAddress .word h ∧ h &&& 3#32 = 0#32

/-- What software must have done before it sets GIE (70_reset_and_hazards.md R275). -/
def InterruptsReady (s : State) : Prop := StackReady s ∧ VectorReady s

/-! ## How a run ends (70_reset_and_hazards.md R279) -/

inductive RunEnd where
  /-- HALT has been executed: the state is final. -/
  | halted (s : State)
  /-- A model fault: the state is never final. -/
  | fault (f : Fault)
  /-- An instruction the model gives no meaning; no run ends so. -/
  | refused (r : Refusal)
  /-- Still going after the steps asked for. -/
  | running (s : State)
  deriving DecidableEq, Repr

/-- How a run of at most `k` steps ends. -/
def runEnd (k : Nat) (s : State) : RunEnd :=
  match k with
  | 0 => if s.halted then .halted s else .running s
  | n + 1 =>
    if s.halted then .halted s
    else
      match step s with
      | .next t => runEnd n t
      | .fault f => .fault f
      | .refused r => .refused r

end Sys2Proof.Machine
end

