-- ==== Sys2Proof/Certificates/Slice0/Obligations.lean ====
section
/-! DEFINITION. The statements for the provers. -/

namespace Sys2Proof.Claims

open Sys2Proof Sys2Proof.Machine

/-! ## The shapes several statements share. In each, `i` run at `s` completes. -/

/-- Z and N are those of a result (40_alu.md R122 to R124). -/
def ResultZN (t : State) (res : Word) : Prop :=
  (t.sr.z = true ↔ res = 0#32) ∧ (t.sr.n = true ↔ 2 ^ 31 ≤ res.toNat)

/-- The addition of `x`, `y` and a carry in: sum modulo 2^32, carry out, signed overflow. -/
def Adds (i : Instr) (s : State) (d : Reg) (x y : Word) (cin : Bool) : Prop :=
  ∃ t, exec i s = .next t ∧
    (t.reg d).toNat = (x.toNat + y.toNat + cin.toNat) % 2 ^ 32 ∧
    (t.sr.c = true ↔ 2 ^ 32 ≤ x.toNat + y.toNat + cin.toNat) ∧
    (t.sr.v = true ↔ x.toInt + y.toInt + cin.toNat < -2 ^ 31 ∨ 2 ^ 31 ≤ x.toInt + y.toInt + cin.toNat) ∧
    ResultZN t (t.reg d) ∧ AluFrame s t d ∧ t.draws = s.draws

/-- The flags of the subtraction of `y` from `x`, whose result is `res`: borrow, signed overflow, Z, N. -/
def SubtractFlags (t : State) (x y res : Word) : Prop :=
  (res.toNat : Int) = ((x.toNat : Int) - y.toNat) % 2 ^ 32 ∧
  (t.sr.c = true ↔ x.toNat < y.toNat) ∧
  (t.sr.v = true ↔ x.toInt - y.toInt < -2 ^ 31 ∨ 2 ^ 31 ≤ x.toInt - y.toInt) ∧
  ResultZN t res

/-- The subtraction of `y` from `x`. -/
def Subtracts (i : Instr) (s : State) (d : Reg) (x y : Word) : Prop :=
  ∃ t, exec i s = .next t ∧ SubtractFlags t x y (t.reg d) ∧ AluFrame s t d ∧ t.draws = s.draws

/-- The comparison of `x` with `y`: the flags of the subtraction, no register written, and the relational conditions
mean what they say. -/
def Compares (i : Instr) (s : State) (x y : Word) : Prop :=
  ∃ t, exec i s = .next t ∧
    (∃ res, SubtractFlags t x y res) ∧
    (Holds .eq t ↔ x = y) ∧ (Holds .ne t ↔ x ≠ y) ∧
    (Holds .lt t ↔ x.toInt < y.toInt) ∧ (Holds .le t ↔ x.toInt ≤ y.toInt) ∧
    (Holds .gt t ↔ x.toInt > y.toInt) ∧ (Holds .ge t ↔ x.toInt ≥ y.toInt) ∧
    (Holds .ult t ↔ x.toNat < y.toNat) ∧ (Holds .ule t ↔ x.toNat ≤ y.toNat) ∧
    (Holds .ugt t ↔ x.toNat > y.toNat) ∧ (Holds .uge t ↔ x.toNat ≥ y.toNat) ∧
    SameRegs s t ∧ t.sr.gie = s.sr.gie ∧ t.pc = s.pc ∧ SameMemory s t ∧ t.io = s.io ∧ SameControl s t ∧
    t.draws = s.draws

/-- A bitwise operation, bit by bit, with C and V cleared. -/
def Bitwise (f : Bool → Bool → Bool) (i : Instr) (s : State) (d : Reg) (x y : Word) : Prop :=
  ∃ t, exec i s = .next t ∧
    (∀ k < 32, (t.reg d).getLsbD k = f (x.getLsbD k) (y.getLsbD k)) ∧
    t.sr.c = false ∧ t.sr.v = false ∧ ResultZN t (t.reg d) ∧ AluFrame s t d ∧ t.draws = s.draws

/-- `f` applied `n` times. -/
def iterate (f : Word → Word) (n : Nat) (x : Word) : Word :=
  match n with
  | 0 => x
  | k + 1 => f (iterate f k x)

/-- A shift by `n`: the result `res`, Z and N of it, and where a bit is shifted out C is `carry`. V, and C after a shift by
0, are left open. -/
def Shifts (i : Instr) (s : State) (d : Reg) (n : Nat) (res : Word) (carry : Bool) : Prop :=
  ∃ t, exec i s = .next t ∧ t.reg d = res ∧ (n ≠ 0 → t.sr.c = carry) ∧ ResultZN t res ∧ AluFrame s t d

/-- A rotate: the result `res`; the four flags are left open. -/
def Rotates (i : Instr) (s : State) (d : Reg) (res : Word → Prop) : Prop :=
  ∃ t, exec i s = .next t ∧ res (t.reg d) ∧ AluFrame s t d

/-- A load from plain memory of the value `v`, extended, into `r`. -/
def Loads (i : Instr) (s : State) (r : Reg) (v : Word) : Prop :=
  ∃ t, exec i s = .next t ∧ t.reg r = v ∧ SameRegsBut s t r ∧ t.sr = s.sr ∧ t.pc = s.pc ∧ SameMemory s t ∧
    t.io = s.io ∧ SameControl s t ∧ t.draws = s.draws

/-- A store to plain memory of the low bytes of `v` at `ea`. -/
def Stores (i : Instr) (s : State) (ea : Word) (w : Width) (v : Word) : Prop :=
  ∃ t, exec i s = .next t ∧ StoredAt t ea w v ∧ SameMemoryBut s t ea w ∧ SameRegs s t ∧ t.sr = s.sr ∧ t.pc = s.pc ∧
    t.io = s.io ∧ SameControl s t ∧ t.draws = s.draws

/-- A load in the device region: the environment's answer in the register, the access recorded, nothing else. -/
def LoadsIo (i : Instr) (s : State) (r : Reg) (ea : Word) (w : Width) (ext : Word → Word) : Prop :=
  ∃ t v, exec i s = .next t ∧ v = lowBits w (Config.ioAnswer s.io (align ea w) w) ∧ t.reg r = ext v ∧
    t.io = s.io ++ [.read (align ea w) w v] ∧ SameRegsBut s t r ∧ t.sr = s.sr ∧ t.pc = s.pc ∧ SameMemory s t ∧
    SameControl s t ∧ t.draws = s.draws

/-- A store in the device region: one output event, no byte of memory changed. -/
def StoresIo (i : Instr) (s : State) (ea : Word) (w : Width) (v : Word) : Prop :=
  ∃ t, exec i s = .next t ∧ t.io = s.io ++ [.write (align ea w) w (lowBits w v)] ∧ SameMemory s t ∧ SameRegs s t ∧
    t.sr = s.sr ∧ t.pc = s.pc ∧ SameControl s t ∧ t.draws = s.draws

/-- A push to plain memory of the word `v`: R7 down by 4, the word stored there, no other byte of memory changed. -/
def Pushes (s t : State) (v : Word) : Prop :=
  t.reg .r7 = s.reg .r7 - 4#32 ∧ StoredAt t (s.reg .r7 - 4#32) .word v ∧
    SameMemoryBut s t (s.reg .r7 - 4#32) .word ∧ SameRegsBut s t .r7 ∧ t.sr = s.sr ∧ SameControl s t

/-- A push in the device region of the word `v`: one output event, R7 down by 4, no byte of memory changed. -/
def PushesIo (s t : State) (v : Word) : Prop :=
  t.io = s.io ++ [.write (align (s.reg .r7 - 4#32) .word) .word v] ∧ t.reg .r7 = s.reg .r7 - 4#32 ∧
    SameRegsBut s t .r7 ∧ SameMemory s t ∧ t.sr = s.sr ∧ SameControl s t

/-- A pop in the device region: the word `v` is the environment's answer, no byte of memory is changed. -/
def PopsIo (s t : State) (v : Word) : Prop :=
  v = Config.ioAnswer s.io (align (s.reg .r7) .word) .word ∧
    t.io = s.io ++ [.read (align (s.reg .r7) .word) .word v] ∧ SameMemory s t ∧ t.halted = s.halted ∧
    t.lines = s.lines ∧ t.params = s.params

/-- A return to `v`: the pc there, R7 up by 4, no other register and no byte of memory changed. -/
def Returns (s t : State) (v : Word) : Prop :=
  t.pc = v ∧ t.reg .r7 = s.reg .r7 + 4#32 ∧ SameRegsBut s t .r7 ∧ SameMemory s t ∧ t.halted = s.halted ∧
    t.lines = s.lines ∧ t.params = s.params ∧ t.draws = s.draws

/-- NMI entry but for the push: IIF cleared, R7 down by 4, the pc at `NMI_VECTOR`, nothing else changed; the environment's
sample is used. -/
def EntersNmi (s t : State) : Prop :=
  t.iif = false ∧ t.reg .r7 = s.reg .r7 - 4#32 ∧ t.pc = s.params.nmiVector ∧ SameRegsBut s t .r7 ∧ t.sr = s.sr ∧
    t.halted = false ∧ t.params = s.params ∧ t.draws = s.draws ∧ t.lines = s.lines.pass

/-- INT0 entry but for the accesses: GIE cleared, R7 down by 4, the pc at the handler `h`, nothing else changed; the
environment's sample is used. -/
def EntersInt0 (s t : State) (h : Word) : Prop :=
  t.sr = { s.sr with gie := false } ∧ t.reg .r7 = s.reg .r7 - 4#32 ∧ t.pc = h ∧ SameRegsBut s t .r7 ∧ t.iif = s.iif ∧
    t.halted = false ∧ t.params = s.params ∧ t.draws = s.draws ∧ t.lines = s.lines.pass

/-- A running machine at a boundary where the check of 60_exceptions.md R236 takes INT0. -/
abbrev TakesInt0 (s : State) : Prop :=
  s.halted = false ∧ ¬ (s.sample.nmi = true ∧ s.iif = true) ∧ s.sample.int0 = true ∧ s.sr.gie = true

/-- The model fault of an access to an unpopulated address. -/
def UnmappedFault (i : Instr) (s : State) (ea : Word) (w : Width) (d : Dir) : Prop :=
  exec i s = .fault (.unmappedAccess (align ea w) w d)

/-- `m` is the lowest undefined byte of those an access at `ea` touches. -/
abbrev FirstMissing (s : State) (ea : Word) (w : Width) (m : Word) : Prop :=
  ∃ k < w.bytes, m = align ea w + BitVec.ofNat 32 k ∧ s.mem.read ((align ea w).toNat + k) = none ∧
    ∀ j < k, s.mem.read ((align ea w).toNat + j) ≠ none

/-- The value of a narrow load's register: the bits of the access, with zeros above or copies of the top bit. -/
def narrow (s : State) (w : Nat) (v : Word) : Word :=
  match s.params.narrowLoadExt with
  | .zero => (v.setWidth w).setWidth 32
  | .sign => (v.setWidth w).signExtend 32

/-- A jump taken: the pc is the target, nothing else changes. -/
def Jumps (i : Instr) (s : State) (target : Word) : Prop :=
  ∃ t, exec i s = .next t ∧ t.pc = target ∧ SameRegs s t ∧ t.sr = s.sr ∧ SameMemory s t ∧ t.io = s.io ∧
    SameControl s t ∧ t.draws = s.draws

/-- A call taken: R7 down by 4, the incremented pc stored there, the pc at the target. -/
def Calls (i : Instr) (s : State) (target : Word) : Prop :=
  ∃ t, exec i s = .next t ∧ t.pc = target ∧ t.reg .r7 = s.reg .r7 - 4#32 ∧
    StoredAt t (s.reg .r7 - 4#32) .word s.pc ∧ SameMemoryBut s t (s.reg .r7 - 4#32) .word ∧
    SameRegsBut s t .r7 ∧ t.sr = s.sr ∧ t.io = s.io ∧ SameControl s t ∧ t.draws = s.draws

/-- What R270 fixes after a reset under some parameters: pc, SR and IIF at the values of `RESET_STATE`, not halted. -/
def InResetState (params : Config.Params) (t : State) : Prop :=
  t.pc = params.resetState.pc ∧ t.sr = params.resetState.sr ∧ t.iif = params.resetState.iif ∧ t.halted = false ∧
    t.params = params

end Sys2Proof.Claims

open Sys2Proof Sys2Proof.Machine Sys2Proof.Claims

/-! ## Encoding -/

/-- 30_encoding.md R96, R97: every instruction is read back from its word, every operand at every value, under every
`OPCODE_MAP` (R88) that gives no number twice. -/
def Obligations.DecodeOfEncode : Prop :=
  ∀ (m : Config.OpcodeMap) (i : Instr), m.Distinct → i.WellFormed → decode m (encode m i) = .ok i

/-- 30_encoding.md R94, R97: a word that decodes is the one word of its instruction, which is well formed, under
every `OPCODE_MAP` (R88). That unused fields are zero is the spec's decision D6. -/
def Obligations.EncodeOfDecode : Prop :=
  ∀ (m : Config.OpcodeMap) (w : Word) (i : Instr), decode m w = .ok i → i.WellFormed ∧ encode m i = w

/-- 30_encoding.md R96: the words that decode are those of the rows of spec/opcode_table.json, each of one row. The words
of the rows rest on the spec's decisions D1 to D6 (log 9); nothing is claimed of a real FRISC's words (R88). The
rows are those of the default `OPCODE_MAP`; under any other, a word is read as the word with the same low 27 bits whose
opcode names the same operation. -/
def Obligations.DecodesExactlyTheTable : Prop :=
  (∀ (w : Word) (i : Instr), decode defaultOpcodeMap w = .ok i → rowOf i ∈ opcodeRows ∧ (rowOf i).holds w) ∧
  (∀ (w : Word) (r : Row), r ∈ opcodeRows → r.holds w → ∃ i, decode defaultOpcodeMap w = .ok i ∧ rowOf i = r) ∧
  (∀ (w : Word) (r q : Row), r ∈ opcodeRows → q ∈ opcodeRows → r.holds w → q.holds w → r = q) ∧
  (∀ (m k : Config.OpcodeMap) (w v : Word), opOf m (opcodeField w) = opOf k (opcodeField v) →
    w.extractLsb' 0 27 = v.extractLsb' 0 27 → decode m w = decode k v)

/-- 30_encoding.md R89: the reserved opcodes, those the `OPCODE_MAP` (R88) gives to no operation, which under the default
map are six, and the fault a step takes on a word with one. The opcode numbers and the fault are the spec's decisions D1
and D8. That under the masking treatment of a misaligned pc the fault carries the unmasked pc is the model's choice
(log 11). -/
def Obligations.ReservedOpcodesFault : Prop :=
  (∀ (m : Config.OpcodeMap) (w : Word),
    decode m w = .error .illegalInstruction ↔ ∀ op, m.code op ≠ opcodeField w) ∧
  (∀ w : Word, decode defaultOpcodeMap w = .error .illegalInstruction ↔
    opcodeField w ∈ [0b00111#5, 0b01110#5, 0b01111#5, 0b11100#5, 0b11101#5, 0b11110#5]) ∧
  (∀ (s t : State) (w : Word), s.halted = false → Quiet s → fetch s.passBoundary = .ok (w, t) →
    decode s.params.opcodeMap w = .error .illegalInstruction → step s = .fault (.illegalInstruction w s.pc))

/-- 30_encoding.md R95: a word with an assigned opcode that no row of the table holds is a reserved encoding, and the
fault a step takes on it. The rows are those of the default `OPCODE_MAP` (D1; `DecodesExactlyTheTable` says what another
map changes), the step's is any. The spec's decisions D6 and D7. That under the masking treatment of a misaligned pc the fault
carries the unmasked pc is the model's choice (log 11). -/
def Obligations.ReservedEncodingsFault : Prop :=
  (∀ w : Word, decode defaultOpcodeMap w = .error .reservedEncoding ↔
    (∃ op, opOf defaultOpcodeMap (opcodeField w) = some op) ∧ ∀ r ∈ opcodeRows, ¬ r.holds w) ∧
  (∀ (s t : State) (w : Word), s.halted = false → Quiet s → fetch s.passBoundary = .ok (w, t) →
    decode s.params.opcodeMap w = .error .reservedEncoding → step s = .fault (.reservedEncoding w s.pc))

/-- Words of examples of 40_alu.md (R126, R129, R132, R136, R138) and 41_move.md (R152, R153) decode to the instructions they
stand for. The words rest on the spec's decisions D1 to D5 (log 9). -/
def Obligations.AluAndMoveWordsDecode : Prop :=
  decode defaultOpcodeMap 0x21020000#32 = .ok (.addR .r2 .r0 .r1) ∧ decode defaultOpcodeMap 0x68020000#32 = .ok (.cmpR .r0 .r1) ∧
  decode defaultOpcodeMap 0x1D000001#32 = .ok (.xorI .r2 .r0 1#20) ∧ decode defaultOpcodeMap 0x65000001#32 = .ok (.ashrI .r2 .r0 1#20) ∧
  decode defaultOpcodeMap 0x45000008#32 = .ok (.rotlI .r2 .r0 8#20) ∧ decode defaultOpcodeMap 0x00200000#32 = .ok (.moveFromSr .r0) ∧
  decode defaultOpcodeMap 0x041FFFFF#32 = .ok (.moveToSrI 0xFFFFF#20)

/-- Words of examples of 42_memory_ops.md (R162, R163, R169), 43_control.md (R183, R184) and 44_system.md (R201, R203) decode
to the instructions they stand for. The words rest on the spec's decisions D1 to D5 (log 9). -/
def Obligations.MemoryAndControlWordsDecode : Prop :=
  decode defaultOpcodeMap 0xB97FFFF8#32 = .ok (.storeBase .r2 .r7 0xFFFF8#20) ∧
  decode defaultOpcodeMap 0xB48F0004#32 = .ok (.loadAbs .r1 0xF0004#20) ∧ decode defaultOpcodeMap 0x80800000#32 = .ok (.pop .r1) ∧
  decode defaultOpcodeMap 0xCC020000#32 = .ok (.callReg .always .r1) ∧ decode defaultOpcodeMap 0xD040000C#32 = .ok (.jr .eq 0xC#20) ∧
  decode defaultOpcodeMap 0xD8000003#32 = .ok (.retn .always) ∧ decode defaultOpcodeMap 0xF8400000#32 = .ok (.halt .eq)

/-! ## Reset and the invariant -/

/-- 10_state.md R41, 70_reset_and_hazards.md R270: the pc, SR, IIF and the halted flag after reset. The first two clauses give
the default values, at `State.reset` and in the default parameters; the others say that the start of a run and a reset
of a running or halted machine (44_system.md R200) take the values of the parameter `RESET_STATE` (00_scope.md R7, 93 U16), whatever they are. Nothing is said of
the general registers (log 1). All but the entry point is the spec's decision D20, the halted flag D23. -/
def Obligations.ResetControlState : Prop :=
  (State.reset.pc = 0#32 ∧ State.reset.sr.toWord = 0#32 ∧ State.reset.iif = true ∧ State.reset.halted = false) ∧
  (defaultParams.resetState.pc = 0#32 ∧ defaultParams.resetState.sr.toWord = 0#32 ∧ defaultParams.resetState.iif = true) ∧
  (∀ (params : Config.Params) (image : List Host.Cell) (lines : Lines), InResetState params (boot params image lines)) ∧
  (∀ (image : List Host.Cell) (s : State), InResetState s.params (resetAgain image s))

/-- 70_reset_and_hazards.md R271, 45_assembler.md R216: before the first step memory holds the bytes of the image, and its
form is canonical. Two clauses are the model's own choices: that of two bytes an image gives for one address the last
counts (log 22), and that no other byte is defined (log 2). -/
def Obligations.BootMemoryIsImage : Prop :=
  ∀ (params : Config.Params) (image : List Host.Cell) (lines : Lines),
    (boot params image lines).mem.wf = true ∧
    (∀ a : Nat, (∀ b, (a, b) ∉ image) → (boot params image lines).mem.read a = none) ∧
    (∀ (before rest : List Host.Cell) (a : Nat) (b : Byte), image = before ++ (a, b) :: rest →
      (∀ c, (a, c) ∉ rest) → (boot params image lines).mem.read a = some b)

/-- The reset state meets the invariant of memory, and so does the start of a run (70_reset_and_hazards.md R279) from any
image of plain memory, whatever the parameters and the lines. -/
def Obligations.ResetMeetsInvariant : Prop :=
  State.reset.Inv ∧
  ∀ (params : Config.Params) (image : List Host.Cell) (lines : Lines),
    (∀ c ∈ image, c.1 < 2 ^ 32 ∧ regionAt params.memMap c.1 = some .plain) → (boot params image lines).Inv

/-- Every step keeps the invariant: memory stays in canonical form and lists bytes of plain memory only. -/
def Obligations.StepKeepsInvariant : Prop :=
  ∀ s t : State, s.Inv → step s = .next t → t.Inv

/-! ## The step -/

/-- 00_scope.md R11, 60_exceptions.md R236: a running machine that takes no interrupt and has a well-formed instruction's
word where it fetches runs that instruction, the pc past it. It fetches at its pc when that is aligned (20_memory.md R57),
and under the masking treatment of a misaligned pc, the model's parameter for U6 (log 11), at the aligned address. In
`IO_REGION` the word is the environment's answer (R52). That such a fetch is recorded with the aligned address (log 7) and
that the step uses one sample of the lines (log 8) are the model's choices. -/
def Obligations.StepRunsDecoded : Prop :=
  ∀ (s : State) (i : Instr) (w : Word), s.halted = false → Quiet s →
    (s.pc &&& 3#32 = 0#32 ∨ s.params.fetchMode = .mask) → decode s.params.opcodeMap w = .ok i →
    (PlainAt s s.pc .word → StoredAt s s.pc .word w →
      step s = exec i ({ s with pc := s.pc + 4#32, lines := s.lines.pass } : State)) ∧
    (IoAt s s.pc .word → w = Config.ioAnswer s.io (align s.pc .word) .word →
      step s = exec i ({ s with pc := s.pc + 4#32, lines := s.lines.pass,
                                io := s.io ++ [.read (align s.pc .word) .word w] } : State))

/-- 60_exceptions.md R244: a halted processor takes no interrupt and does nothing. The spec's decision D23. -/
def Obligations.HaltedStepChangesNothing : Prop :=
  ∀ s : State, s.halted = true → step s = .next s

/-- 20_memory.md R57: a fetch at a pc with non-zero low bits is a model fault, whatever stands in memory. The spec's
decision D12. -/
def Obligations.MisalignedFetchFaults : Prop :=
  ∀ s : State, s.halted = false → Quiet s → s.params.fetchMode = .fault → s.pc.toNat % 4 ≠ 0 →
    step s = .fault (.misalignedFetch s.pc)

/-- A fetch that meets an undefined byte of plain memory is a model fault with the lowest such byte's address
(70_reset_and_hazards.md R271; of the two treatments R271 offers the model takes this one, log 2), under the masking
treatment of a misaligned pc too (log 11). -/
def Obligations.UndefinedFetchFaults : Prop :=
  ∀ (s : State) (m : Word), s.halted = false → Quiet s → (s.pc.toNat % 4 = 0 ∨ s.params.fetchMode = .mask) →
    PlainAt s s.pc .word → FirstMissing s s.pc .word m → step s = .fault (.unwrittenRead m)

/-- 60_exceptions.md R239, R236, R237: a running machine with `NMI_LINE` and IIF at 1 takes NMI, whatever INT0 asks, the
stack in plain memory or in `IO_REGION`. That NMI comes first is the spec's decision D35 (R237). That an output event
carries the aligned address (log 7) and that the step uses one sample of the lines (log 8) are the model's choices. -/
def Obligations.NmiEntry : Prop :=
  ∀ s : State, s.halted = false → s.sample.nmi = true → s.iif = true →
    (PlainAt s (s.reg .r7 - 4#32) .word →
      ∃ t, step s = .next t ∧ EntersNmi s t ∧ StoredAt t (s.reg .r7 - 4#32) .word s.pc ∧
        SameMemoryBut s t (s.reg .r7 - 4#32) .word ∧ t.io = s.io) ∧
    (IoAt s (s.reg .r7 - 4#32) .word →
      ∃ t, step s = .next t ∧ EntersNmi s t ∧ SameMemory s t ∧
        t.io = s.io ++ [.write (align (s.reg .r7 - 4#32) .word) .word s.pc])

/-- 60_exceptions.md R238: a running machine with `INT0_LINE` and GIE at 1 and no NMI to take takes INT0: the push, in plain
memory or in `IO_REGION`, and then the pc from the vector word at 8, in plain memory (as the push left it) or in
`IO_REGION`. That the accesses in `IO_REGION` are recorded, with the aligned address (log 7), and that the step uses one
sample of the lines (log 8) are the model's choices. Where the vector read stops, see `UnmappedAccessesFault` and
`UndefinedReadsFault`. -/
def Obligations.Int0Entry : Prop :=
  ∀ (s : State) (h : Word), TakesInt0 s →
    (PlainAt s (s.reg .r7 - 4#32) .word → PlainAt s 8#32 .word →
      (if align (s.reg .r7 - 4#32) .word = 8#32 then h = s.pc else StoredAt s 8#32 .word h) →
      ∃ t, step s = .next t ∧ EntersInt0 s t h ∧ StoredAt t (s.reg .r7 - 4#32) .word s.pc ∧
        SameMemoryBut s t (s.reg .r7 - 4#32) .word ∧ t.io = s.io) ∧
    (IoAt s (s.reg .r7 - 4#32) .word → PlainAt s 8#32 .word → StoredAt s 8#32 .word h →
      ∃ t, step s = .next t ∧ EntersInt0 s t h ∧ SameMemory s t ∧
        t.io = s.io ++ [.write (align (s.reg .r7 - 4#32) .word) .word s.pc]) ∧
    (PlainAt s (s.reg .r7 - 4#32) .word → IoAt s 8#32 .word → h = Config.ioAnswer s.io 8#32 .word →
      ∃ t, step s = .next t ∧ EntersInt0 s t h ∧ StoredAt t (s.reg .r7 - 4#32) .word s.pc ∧
        SameMemoryBut s t (s.reg .r7 - 4#32) .word ∧ t.io = s.io ++ [.read 8#32 .word h]) ∧
    (IoAt s (s.reg .r7 - 4#32) .word → IoAt s 8#32 .word →
      h = Config.ioAnswer (s.io ++ [.write (align (s.reg .r7 - 4#32) .word) .word s.pc]) 8#32 .word →
      ∃ t, step s = .next t ∧ EntersInt0 s t h ∧ SameMemory s t ∧
        t.io = s.io ++ [.write (align (s.reg .r7 - 4#32) .word) .word s.pc, .read 8#32 .word h])

/-- 60_exceptions.md R238, 44_system.md R202: RETI right after INT0 entry resumes the interrupted program: its pc, its
registers, its flags, with GIE set, and no byte changed but the stack word. The stack is in plain memory: one in
`IO_REGION` need not give the pc back, its word being the environment's answer (20_memory.md R65). -/
def Obligations.Int0EntryThenReti : Prop :=
  ∀ s t : State, enterInterrupt s .int0 = .ok t → s.sr.gie = true → PlainAt s (s.reg .r7 - 4#32) .word →
    ∃ u, exec (.reti .always) t = .next u ∧ u.pc = s.pc ∧ SameRegs s u ∧ u.sr = s.sr ∧ u.iif = s.iif ∧
      SameMemoryBut s u (s.reg .r7 - 4#32) .word ∧ u.halted = s.halted

/-- 60_exceptions.md R239, 44_system.md R203: RETN right after NMI entry resumes the interrupted program, SR untouched,
with IIF set. The stack is in plain memory: one in `IO_REGION` need not give the pc back (20_memory.md R65). -/
def Obligations.NmiEntryThenRetn : Prop :=
  ∀ s t : State, enterInterrupt s .nmi = .ok t → s.iif = true → PlainAt s (s.reg .r7 - 4#32) .word →
    ∃ u, exec (.retn .always) t = .next u ∧ u.pc = s.pc ∧ SameRegs s u ∧ u.sr = s.sr ∧ u.iif = s.iif ∧
      SameMemoryBut s u (s.reg .r7 - 4#32) .word ∧ u.io = s.io ∧ u.halted = s.halted

/-! ## Arithmetic, logic, shifts and rotates -/

/-- 40_alu.md R122, R126, R128: ADD and ADC, both forms; the carry into ADC is the old SR.C. -/
def Obligations.AddAndAdcAdd : Prop :=
  ∀ (s : State) (d a : Reg),
    (∀ b, Adds (.addR d a b) s d (s.reg a) (s.reg b) false) ∧
    (∀ i : Imm20, Adds (.addI d a i) s d (s.reg a) (i.signExtend 32) false) ∧
    (∀ b, Adds (.adcR d a b) s d (s.reg a) (s.reg b) s.sr.c) ∧
    (∀ i : Imm20, Adds (.adcI d a i) s d (s.reg a) (i.signExtend 32) s.sr.c)

/-- 40_alu.md R122, R127: SUB, both forms. That C is the borrow and not its complement is the spec's own inference (R122,
derived from 30_encoding.md R92; 90_conflicts.md C15). -/
def Obligations.SubSubtracts : Prop :=
  ∀ (s : State) (d a : Reg),
    (∀ b, Subtracts (.subR d a b) s d (s.reg a) (s.reg b)) ∧
    (∀ i : Imm20, Subtracts (.subI d a i) s d (s.reg a) (i.signExtend 32))

/-- 40_alu.md R122, R129: CMP, both forms, and what the ten relational conditions mean after it. That C is the borrow is
the spec's own inference (R122; 90_conflicts.md C15). -/
def Obligations.CmpCompares : Prop :=
  ∀ (s : State) (a : Reg),
    (∀ b, Compares (.cmpR a b) s (s.reg a) (s.reg b)) ∧
    (∀ i : Imm20, Compares (.cmpI a i) s (s.reg a) (i.signExtend 32))

/-- 40_alu.md R123, R130 to R132: AND, OR, XOR, both forms. -/
def Obligations.LogicIsBitwise : Prop :=
  ∀ (s : State) (d a : Reg),
    (∀ b, Bitwise and (.andR d a b) s d (s.reg a) (s.reg b)) ∧
    (∀ i : Imm20, Bitwise and (.andI d a i) s d (s.reg a) (i.signExtend 32)) ∧
    (∀ b, Bitwise or (.orR d a b) s d (s.reg a) (s.reg b)) ∧
    (∀ i : Imm20, Bitwise or (.orI d a i) s d (s.reg a) (i.signExtend 32)) ∧
    (∀ b, Bitwise xor (.xorR d a b) s d (s.reg a) (s.reg b)) ∧
    (∀ i : Imm20, Bitwise xor (.xorI d a i) s d (s.reg a) (i.signExtend 32))

/-- 40_alu.md R133, R134: SHL by `n` is `n` shifts by one position, C the bit the last of them drops. The spec's
decisions D13 and D14. -/
def Obligations.ShlIteratesSingleShifts : Prop :=
  ∀ (s : State) (d a : Reg) (i : Imm20) (b : Reg),
    (let n := shiftAmount s (s.reg b)
     Shifts (.shlR d a b) s d n (iterate (· <<< 1) n (s.reg a)) ((iterate (· <<< 1) (n - 1) (s.reg a)).getLsbD 31)) ∧
    (let n := shiftAmount s (i.signExtend 32)
     Shifts (.shlI d a i) s d n (iterate (· <<< 1) n (s.reg a)) ((iterate (· <<< 1) (n - 1) (s.reg a)).getLsbD 31))

/-- 40_alu.md R133, R135: SHR by `n` is `n` shifts by one position, C the bit the last of them drops. The spec's
decisions D13 and D14. -/
def Obligations.ShrIteratesSingleShifts : Prop :=
  ∀ (s : State) (d a : Reg) (i : Imm20) (b : Reg),
    (let n := shiftAmount s (s.reg b)
     Shifts (.shrR d a b) s d n (iterate (· >>> 1) n (s.reg a)) ((iterate (· >>> 1) (n - 1) (s.reg a)).getLsbD 0)) ∧
    (let n := shiftAmount s (i.signExtend 32)
     Shifts (.shrI d a i) s d n (iterate (· >>> 1) n (s.reg a)) ((iterate (· >>> 1) (n - 1) (s.reg a)).getLsbD 0))

/-- 40_alu.md R133, R136: ASHR by `n` is `n` arithmetic shifts by one position, C the bit the last of them drops. The
spec's decisions D13 and D14. -/
def Obligations.AshrIteratesSingleShifts : Prop :=
  ∀ (s : State) (d a : Reg) (i : Imm20) (b : Reg),
    (let n := shiftAmount s (s.reg b)
     Shifts (.ashrR d a b) s d n (iterate (·.sshiftRight 1) n (s.reg a))
       ((iterate (·.sshiftRight 1) (n - 1) (s.reg a)).getLsbD 0)) ∧
    (let n := shiftAmount s (i.signExtend 32)
     Shifts (.ashrI d a i) s d n (iterate (·.sshiftRight 1) n (s.reg a))
       ((iterate (·.sshiftRight 1) (n - 1) (s.reg a)).getLsbD 0))

/-- 40_alu.md R133: the amount is the whole second operand, or in the other mode its low five bits. The spec's
decision D13. -/
def Obligations.ShiftAmountByMode : Prop :=
  ∀ (s : State) (y : Word),
    (s.params.shiftMode = .full → shiftAmount s y = y.toNat) ∧
    (s.params.shiftMode = .mod32 → shiftAmount s y = (y.extractLsb' 0 5).toNat)

/-- 40_alu.md R137 to R139, R125: ROTL moves bit `k` to bit `k + n` modulo 32, ROTR moves bit `k + n` modulo 32 to bit `k`.
That the amount counts modulo 32 is the spec's inference (R137, derived from R133), and that the four flags are open and
GIE unchanged its decision D15 (R125; log 20). -/
def Obligations.RotatesMoveBits : Prop :=
  ∀ (s : State) (d a : Reg),
    (∀ b, Rotates (.rotlR d a b) s d
      (fun res => ∀ k < 32, res.getLsbD ((k + (s.reg b).toNat) % 32) = (s.reg a).getLsbD k)) ∧
    (∀ i : Imm20, Rotates (.rotlI d a i) s d
      (fun res => ∀ k < 32, res.getLsbD ((k + (i.signExtend 32).toNat) % 32) = (s.reg a).getLsbD k)) ∧
    (∀ b, Rotates (.rotrR d a b) s d
      (fun res => ∀ k < 32, res.getLsbD k = (s.reg a).getLsbD ((k + (s.reg b).toNat) % 32))) ∧
    (∀ i : Imm20, Rotates (.rotrI d a i) s d
      (fun res => ∀ k < 32, res.getLsbD k = (s.reg a).getLsbD ((k + (i.signExtend 32).toNat) % 32)))

/-- 41_move.md R151: MOVE to a register, both forms, changes nothing but its destination. That no flag changes is the
spec's decision D16. -/
def Obligations.MoveCopies : Prop :=
  ∀ (s : State) (d : Reg),
    (∀ r, ∃ t, exec (.moveR d r) s = .next t ∧ t.reg d = s.reg r ∧ t.sr = s.sr ∧ AluFrame s t d ∧
      t.draws = s.draws) ∧
    (∀ i : Imm20, ∃ t, exec (.moveI d i) s = .next t ∧ t.reg d = i.signExtend 32 ∧ t.sr = s.sr ∧ AluFrame s t d ∧
      t.draws = s.draws)

/-- 41_move.md R152, 10_state.md R31: MOVE to SR, both forms, writes bits 4 to 0 and no register; bits 31 to 5 of SR
read as zero afterwards. The spec's decision D17. -/
def Obligations.MoveToSrWritesLiveBits : Prop :=
  ∀ s : State,
    (∀ r, ∃ t, exec (.moveToSrR r) s = .next t ∧ t.sr.toWord = s.reg r &&& 0x1F#32 ∧
      t.sr.c = (s.reg r).getLsbD 0 ∧ t.sr.v = (s.reg r).getLsbD 1 ∧ t.sr.z = (s.reg r).getLsbD 2 ∧
      t.sr.n = (s.reg r).getLsbD 3 ∧ t.sr.gie = (s.reg r).getLsbD 4 ∧
      SameRegs s t ∧ t.pc = s.pc ∧ SameMemory s t ∧ t.io = s.io ∧ SameControl s t ∧ t.draws = s.draws) ∧
    (∀ i : Imm20, ∃ t, exec (.moveToSrI i) s = .next t ∧ t.sr.toWord = i.signExtend 32 &&& 0x1F#32 ∧
      t.sr.c = i.getLsbD 0 ∧ t.sr.v = i.getLsbD 1 ∧ t.sr.z = i.getLsbD 2 ∧ t.sr.n = i.getLsbD 3 ∧
      t.sr.gie = i.getLsbD 4 ∧
      SameRegs s t ∧ t.pc = s.pc ∧ SameMemory s t ∧ t.io = s.io ∧ SameControl s t ∧ t.draws = s.draws)

/-- 41_move.md R153, 10_state.md R31: MOVE from SR delivers the five live bits, and zeros above them. That bits 31 to 5 are
delivered as zeros is the spec's decision D17 (log 19). -/
def Obligations.MoveFromSrReadsLiveBits : Prop :=
  ∀ (s : State) (d : Reg), ∃ t, exec (.moveFromSr d) s = .next t ∧
    (t.reg d).toNat = 16 * s.sr.gie.toNat + 8 * s.sr.n.toNat + 4 * s.sr.z.toNat + 2 * s.sr.v.toNat + s.sr.c.toNat ∧
    t.sr = s.sr ∧ AluFrame s t d ∧ t.draws = s.draws

/-! ## Loads, stores and the stack -/

/-- 42_memory_ops.md R160 to R162: LOAD, both forms, from defined plain memory at the aligned word, or from
`IO_REGION`. That no flag changes is the spec's decision D16 (log 20), that the effective address wraps D19 (R161;
log 21). That a read in `IO_REGION` is recorded in `io`, with the aligned address, is the model's choice (log 7). -/
def Obligations.LoadReadsWord : Prop :=
  ∀ (s : State) (r : Reg) (v : Word) (i : Imm20),
    (∀ b, PlainAt s (s.reg b + i.signExtend 32) .word → StoredAt s (s.reg b + i.signExtend 32) .word v →
      Loads (.loadBase r b i) s r v) ∧
    (PlainAt s (i.signExtend 32) .word → StoredAt s (i.signExtend 32) .word v → Loads (.loadAbs r i) s r v) ∧
    (∀ b, IoAt s (s.reg b + i.signExtend 32) .word →
      LoadsIo (.loadBase r b i) s r (s.reg b + i.signExtend 32) .word id) ∧
    (IoAt s (i.signExtend 32) .word → LoadsIo (.loadAbs r i) s r (i.signExtend 32) .word id)

/-- 42_memory_ops.md R165, R167: LOADH and LOADB, both forms, extended as `NARROW_LOAD_EXT` says. The spec's decisions
D10 (log 10), for the address of a halfword D11, and for a wrapping address D19 (log 21). That a read in `IO_REGION` is
recorded in `io`, with the aligned address, is the model's choice (log 7). -/
def Obligations.NarrowLoadsExtend : Prop :=
  ∀ (s : State) (r : Reg) (v : Word) (i : Imm20),
    (∀ b, PlainAt s (baseAddress s b i) .half → StoredAt s (baseAddress s b i) .half v →
      Loads (.loadhBase r b i) s r (narrow s 16 v)) ∧
    (PlainAt s (absAddress i) .half → StoredAt s (absAddress i) .half v →
      Loads (.loadhAbs r i) s r (narrow s 16 v)) ∧
    (∀ b, PlainAt s (baseAddress s b i) .byte → StoredAt s (baseAddress s b i) .byte v →
      Loads (.loadbBase r b i) s r (narrow s 8 v)) ∧
    (PlainAt s (absAddress i) .byte → StoredAt s (absAddress i) .byte v →
      Loads (.loadbAbs r i) s r (narrow s 8 v)) ∧
    (∀ b, IoAt s (baseAddress s b i) .half → LoadsIo (.loadhBase r b i) s r (baseAddress s b i) .half (narrow s 16)) ∧
    (IoAt s (absAddress i) .half → LoadsIo (.loadhAbs r i) s r (absAddress i) .half (narrow s 16)) ∧
    (∀ b, IoAt s (baseAddress s b i) .byte → LoadsIo (.loadbBase r b i) s r (baseAddress s b i) .byte (narrow s 8)) ∧
    (IoAt s (absAddress i) .byte → LoadsIo (.loadbAbs r i) s r (absAddress i) .byte (narrow s 8))

/-- 42_memory_ops.md R160, R161, R163: STORE, both forms, to plain memory at the aligned word, or to `IO_REGION`
(20_memory.md R65). That the effective address wraps is the spec's decision D19 (R161; log 21). That the output event
carries the aligned address is the model's choice (log 7), unsafe for misaligned device stores. -/
def Obligations.StoreWritesWord : Prop :=
  ∀ (s : State) (r : Reg) (i : Imm20),
    (∀ b, PlainAt s (s.reg b + i.signExtend 32) .word →
      Stores (.storeBase r b i) s (s.reg b + i.signExtend 32) .word (s.reg r)) ∧
    (PlainAt s (i.signExtend 32) .word → Stores (.storeAbs r i) s (i.signExtend 32) .word (s.reg r)) ∧
    (∀ b, IoAt s (s.reg b + i.signExtend 32) .word →
      StoresIo (.storeBase r b i) s (s.reg b + i.signExtend 32) .word (s.reg r)) ∧
    (IoAt s (i.signExtend 32) .word → StoresIo (.storeAbs r i) s (i.signExtend 32) .word (s.reg r))

/-- 42_memory_ops.md R164, R166: STOREH and STOREB, both forms: the low halfword at the aligned halfword, the low
byte. The spec's decisions D11 and, for a wrapping address, D19 (log 21). That the output event of a store to `IO_REGION`
carries the aligned address and the low bits of the register is the model's choice (log 7). -/
def Obligations.NarrowStoresWriteLowBits : Prop :=
  ∀ (s : State) (r : Reg) (i : Imm20),
    (∀ b, PlainAt s (baseAddress s b i) .half →
      Stores (.storehBase r b i) s (baseAddress s b i) .half (s.reg r)) ∧
    (PlainAt s (absAddress i) .half → Stores (.storehAbs r i) s (absAddress i) .half (s.reg r)) ∧
    (∀ b, PlainAt s (baseAddress s b i) .byte →
      Stores (.storebBase r b i) s (baseAddress s b i) .byte (s.reg r)) ∧
    (PlainAt s (absAddress i) .byte → Stores (.storebAbs r i) s (absAddress i) .byte (s.reg r)) ∧
    (∀ b, IoAt s (baseAddress s b i) .half → StoresIo (.storehBase r b i) s (baseAddress s b i) .half (s.reg r)) ∧
    (IoAt s (absAddress i) .half → StoresIo (.storehAbs r i) s (absAddress i) .half (s.reg r)) ∧
    (∀ b, IoAt s (baseAddress s b i) .byte → StoresIo (.storebBase r b i) s (baseAddress s b i) .byte (s.reg r)) ∧
    (IoAt s (absAddress i) .byte → StoresIo (.storebAbs r i) s (absAddress i) .byte (s.reg r))

/-- 20_memory.md R54: alignment drops the low bits of the address and no others. For halfwords it is the spec's
decision D11. -/
def Obligations.AlignmentDropsLowBits : Prop :=
  ∀ a : Word, (align a .word).toNat = a.toNat - a.toNat % 4 ∧ (align a .half).toNat = a.toNat - a.toNat % 2 ∧
    align a .byte = a

/-- 20_memory.md R56: what narrower and misaligned reads see after a word is stored. That a halfword read at an odd address
reads the halfword below it is the spec's decision D11 (log 21). -/
def Obligations.MixedWidthReads : Prop :=
  ∀ (m : Memory) (a v : Word), a.toNat % 4 = 0 → ∀ k : Nat, k < 4 →
    (m.store a .word v).load (align (a + BitVec.ofNat 32 k) .byte) .byte
      = .ok ((v.extractLsb' (8 * k) 8).setWidth 32) ∧
    (m.store a .word v).load (align (a + BitVec.ofNat 32 k) .half) .half
      = .ok ((v.extractLsb' (16 * (k / 2)) 16).setWidth 32) ∧
    (m.store a .word v).load (align (a + BitVec.ofNat 32 k) .word) .word = .ok v

/-- 42_memory_ops.md R168, R170: PUSH to plain memory or to `IO_REGION`. The word stored is the register, and for `PUSH R7`
any word, with R7 down by 4: the spec's decision D18 (R170; log 17). That the output event carries the aligned address is
the model's choice (log 7). -/
def Obligations.PushStoresBelow : Prop :=
  ∀ (s : State) (r : Reg),
    (PlainAt s (s.reg .r7 - 4#32) .word →
      ∃ t v, exec (.push r) s = .next t ∧ (r ≠ .r7 → v = s.reg r) ∧ Pushes s t v ∧ t.io = s.io ∧ t.pc = s.pc) ∧
    (IoAt s (s.reg .r7 - 4#32) .word →
      ∃ t v, exec (.push r) s = .next t ∧ (r ≠ .r7 → v = s.reg r) ∧ PushesIo s t v ∧ t.pc = s.pc)

/-- 42_memory_ops.md R169, R170: POP from defined plain memory or from `IO_REGION`. After `POP R7` nothing is said of R7:
that it completes with R7 open is the spec's decision D18 (R170; log 17). That the read in `IO_REGION` is recorded, with
the aligned address, is the model's choice (log 7). -/
def Obligations.PopLoadsAndRaises : Prop :=
  ∀ (s : State) (r : Reg),
    (∀ v, PlainAt s (s.reg .r7) .word → StoredAt s (s.reg .r7) .word v →
      ∃ t, exec (.pop r) s = .next t ∧ (r ≠ .r7 → t.reg r = v ∧ t.reg .r7 = s.reg .r7 + 4#32) ∧
        SameRegsBut2 s t r .r7 ∧ SameMemory s t ∧ t.sr = s.sr ∧ t.pc = s.pc ∧ t.io = s.io ∧ SameControl s t) ∧
    (IoAt s (s.reg .r7) .word →
      ∃ t v, exec (.pop r) s = .next t ∧ PopsIo s t v ∧ (r ≠ .r7 → t.reg r = v ∧ t.reg .r7 = s.reg .r7 + 4#32) ∧
        SameRegsBut2 s t r .r7 ∧ t.sr = s.sr ∧ t.iif = s.iif ∧ t.pc = s.pc)

/-- 42_memory_ops.md R168, R169: a POP after a PUSH moves the word from one register to the other and restores R7. -/
def Obligations.PopAfterPush : Prop :=
  ∀ (s t : State) (r q : Reg), r ≠ .r7 → q ≠ .r7 → PlainAt s (s.reg .r7 - 4#32) .word → exec (.push r) s = .next t →
    ∃ u, exec (.pop q) t = .next u ∧ u.reg q = s.reg r ∧ u.reg .r7 = s.reg .r7 ∧ SameRegsBut s u q ∧
      SameMemoryBut s u (s.reg .r7 - 4#32) .word

/-! ## Control transfers and the system instructions -/

/-- 20_memory.md R65, 60_exceptions.md R248: every access that touches an unpopulated address is a model fault with its
aligned address, width and direction: a fetch, at an aligned pc or under the masking treatment (log 11); a load, store,
push, pop, call or return; the push of an interrupt entry; and the vector read of INT0 entry after a push that succeeds.
Of the two treatments R65 offers (no step, or a fault; D26) the model takes the fault (log 12). -/
def Obligations.UnmappedAccessesFault : Prop :=
  ∀ s : State,
    (s.halted = false → Quiet s → UnmappedAt s s.pc .word →
      (s.pc &&& 3#32 = 0#32 → step s = .fault (.unmappedAccess s.pc .word .read)) ∧
      (s.params.fetchMode = .mask → step s = .fault (.unmappedAccess (align s.pc .word) .word .read))) ∧
    (TakesInt0 s → ¬ UnmappedAt s (s.reg .r7 - 4#32) .word → UnmappedAt s 8#32 .word →
      step s = .fault (.unmappedAccess 8#32 .word .read)) ∧
    (∀ (r b : Reg) (i : Imm20),
      (UnmappedAt s (baseAddress s b i) .word →
        UnmappedFault (.loadBase r b i) s (baseAddress s b i) .word .read ∧
        UnmappedFault (.storeBase r b i) s (baseAddress s b i) .word .write) ∧
      (UnmappedAt s (absAddress i) .word →
        UnmappedFault (.loadAbs r i) s (absAddress i) .word .read ∧
        UnmappedFault (.storeAbs r i) s (absAddress i) .word .write) ∧
      (UnmappedAt s (baseAddress s b i) .half →
        UnmappedFault (.loadhBase r b i) s (baseAddress s b i) .half .read ∧
        UnmappedFault (.storehBase r b i) s (baseAddress s b i) .half .write) ∧
      (UnmappedAt s (absAddress i) .half →
        UnmappedFault (.loadhAbs r i) s (absAddress i) .half .read ∧
        UnmappedFault (.storehAbs r i) s (absAddress i) .half .write) ∧
      (UnmappedAt s (baseAddress s b i) .byte →
        UnmappedFault (.loadbBase r b i) s (baseAddress s b i) .byte .read ∧
        UnmappedFault (.storebBase r b i) s (baseAddress s b i) .byte .write) ∧
      (UnmappedAt s (absAddress i) .byte →
        UnmappedFault (.loadbAbs r i) s (absAddress i) .byte .read ∧
        UnmappedFault (.storebAbs r i) s (absAddress i) .byte .write)) ∧
    (UnmappedAt s (s.reg .r7 - 4#32) .word →
      (∀ r, UnmappedFault (.push r) s (s.reg .r7 - 4#32) .word .write) ∧
      (∀ c, Holds c s → (∀ i, UnmappedFault (.callAddr c i) s (s.reg .r7 - 4#32) .word .write) ∧
        ∀ r, UnmappedFault (.callReg c r) s (s.reg .r7 - 4#32) .word .write) ∧
      (s.halted = false → ¬ Quiet s →
        step s = .fault (.unmappedAccess (align (s.reg .r7 - 4#32) .word) .word .write))) ∧
    (UnmappedAt s (s.reg .r7) .word →
      (∀ r, UnmappedFault (.pop r) s (s.reg .r7) .word .read) ∧
      (∀ c, Holds c s → UnmappedFault (.ret c) s (s.reg .r7) .word .read ∧
        UnmappedFault (.reti c) s (s.reg .r7) .word .read ∧ UnmappedFault (.retn c) s (s.reg .r7) .word .read))

/-- A load from plain memory, a pop, a return, or the vector read of INT0 entry (60_exceptions.md R238), that meets an
undefined byte is a model fault with the lowest such byte's address (70_reset_and_hazards.md R271; of the two treatments
R271 offers the model takes this one, log 2). The vector word is read after the push has succeeded; a push on top of it
defines it, and any other leaves it as it was. -/
def Obligations.UndefinedReadsFault : Prop :=
  ∀ (s : State) (m : Word),
    (TakesInt0 s → ¬ UnmappedAt s (s.reg .r7 - 4#32) .word →
      ¬ (PlainAt s (s.reg .r7 - 4#32) .word ∧ align (s.reg .r7 - 4#32) .word = 8#32) → PlainAt s 8#32 .word →
      FirstMissing s 8#32 .word m → step s = .fault (.unwrittenRead m)) ∧
    (∀ (r b : Reg) (i : Imm20),
      (PlainAt s (baseAddress s b i) .word → FirstMissing s (baseAddress s b i) .word m →
        exec (.loadBase r b i) s = .fault (.unwrittenRead m)) ∧
      (PlainAt s (absAddress i) .word → FirstMissing s (absAddress i) .word m →
        exec (.loadAbs r i) s = .fault (.unwrittenRead m)) ∧
      (PlainAt s (baseAddress s b i) .half → FirstMissing s (baseAddress s b i) .half m →
        exec (.loadhBase r b i) s = .fault (.unwrittenRead m)) ∧
      (PlainAt s (absAddress i) .half → FirstMissing s (absAddress i) .half m →
        exec (.loadhAbs r i) s = .fault (.unwrittenRead m)) ∧
      (PlainAt s (baseAddress s b i) .byte → FirstMissing s (baseAddress s b i) .byte m →
        exec (.loadbBase r b i) s = .fault (.unwrittenRead m)) ∧
      (PlainAt s (absAddress i) .byte → FirstMissing s (absAddress i) .byte m →
        exec (.loadbAbs r i) s = .fault (.unwrittenRead m))) ∧
    (PlainAt s (s.reg .r7) .word → FirstMissing s (s.reg .r7) .word m →
      (∀ r, exec (.pop r) s = .fault (.unwrittenRead m)) ∧
      (∀ c, Holds c s → exec (.ret c) s = .fault (.unwrittenRead m) ∧
        exec (.reti c) s = .fault (.unwrittenRead m) ∧ exec (.retn c) s = .fault (.unwrittenRead m)))

/-- 30_encoding.md R92: the fourteen conditional tests and the unconditional one; the reserved code has none. -/
def Obligations.ConditionTable : Prop :=
  ∀ s : State, Holds .always s ∧
    (Holds .eq s ↔ s.sr.z = true) ∧ (Holds .ne s ↔ s.sr.z = false) ∧
    (Holds .lt s ↔ s.sr.n ≠ s.sr.v) ∧ (Holds .le s ↔ s.sr.z = true ∨ s.sr.n ≠ s.sr.v) ∧
    (Holds .gt s ↔ s.sr.z = false ∧ s.sr.n = s.sr.v) ∧ (Holds .ge s ↔ s.sr.n = s.sr.v) ∧
    (Holds .ult s ↔ s.sr.c = true) ∧ (Holds .ule s ↔ s.sr.c = true ∨ s.sr.z = true) ∧
    (Holds .ugt s ↔ s.sr.c = false ∧ s.sr.z = false) ∧ (Holds .uge s ↔ s.sr.c = false) ∧
    (Holds .n s ↔ s.sr.n = true) ∧ (Holds .nn s ↔ s.sr.n = false) ∧
    (Holds .v s ↔ s.sr.v = true) ∧ (Holds .nv s ↔ s.sr.v = false) ∧
    (∀ c, condHolds c s.sr = none ↔ c = .reserved)

/-- 43_control.md R180: an instruction whose condition is false has no effect at all. That every format-C instruction
honours its condition is the spec's decision D9. -/
def Obligations.FalseConditionDoesNothing : Prop :=
  ∀ (s : State) (i : Instr), i.WellFormed → ¬ Holds i.cond s → exec i s = .next s

/-- 43_control.md R181 to R183: JP, both forms, and JR taken; JR counts from the incremented pc. That base is the spec's
inference from 10_state.md R24 (R183), and that the sum wraps its decision D19 (log 21). -/
def Obligations.JumpsGoToTarget : Prop :=
  ∀ (s : State) (c : Cond), Holds c s →
    (∀ i : Imm20, Jumps (.jpAddr c i) s (i.signExtend 32)) ∧ (∀ r, Jumps (.jpReg c r) s (s.reg r)) ∧
    (∀ i : Imm20, Jumps (.jr c i) s (s.pc + i.signExtend 32))

/-- 43_control.md R184, R185: CALL, both forms, taken, the stack in plain memory or in `IO_REGION`. That the target of
`CALL (R7)` is the old R7 is the spec's decision D18 (R185; log 17, unsafe), and that CALL honours its condition D9
(log 16). That the output event carries the aligned address is the model's choice (log 7). -/
def Obligations.CallCalls : Prop :=
  ∀ (s : State) (c : Cond), Holds c s →
    (PlainAt s (s.reg .r7 - 4#32) .word →
      (∀ i : Imm20, Calls (.callAddr c i) s (i.signExtend 32)) ∧ (∀ r, Calls (.callReg c r) s (s.reg r))) ∧
    (IoAt s (s.reg .r7 - 4#32) .word →
      (∀ i : Imm20, ∃ t, exec (.callAddr c i) s = .next t ∧ PushesIo s t s.pc ∧ t.pc = i.signExtend 32) ∧
      (∀ r, ∃ t, exec (.callReg c r) s = .next t ∧ PushesIo s t s.pc ∧ t.pc = s.reg r))

/-- 43_control.md R186, 44_system.md R202, R203: RET, RETI and RETN taken, from defined plain memory or from `IO_REGION`:
the pc popped, R7 up by 4, RETI sets GIE, RETN sets IIF. That the three honour their condition is the spec's decision D9
(log 16). That the read in `IO_REGION` is recorded, with the aligned address, is the model's choice (log 7). -/
def Obligations.ReturnsPopPc : Prop :=
  ∀ (s : State) (c : Cond), Holds c s →
    (∀ v, PlainAt s (s.reg .r7) .word → StoredAt s (s.reg .r7) .word v →
      (∃ t, exec (.ret c) s = .next t ∧ Returns s t v ∧ t.sr = s.sr ∧ t.iif = s.iif ∧ t.io = s.io) ∧
      (∃ t, exec (.reti c) s = .next t ∧ Returns s t v ∧ t.sr = { s.sr with gie := true } ∧ t.iif = s.iif ∧
        t.io = s.io) ∧
      (∃ t, exec (.retn c) s = .next t ∧ Returns s t v ∧ t.sr = s.sr ∧ t.iif = true ∧ t.io = s.io)) ∧
    (IoAt s (s.reg .r7) .word →
      (∃ t v, exec (.ret c) s = .next t ∧ PopsIo s t v ∧ Returns s t v ∧ t.sr = s.sr ∧ t.iif = s.iif) ∧
      (∃ t v, exec (.reti c) s = .next t ∧ PopsIo s t v ∧ Returns s t v ∧ t.sr = { s.sr with gie := true } ∧
        t.iif = s.iif) ∧
      (∃ t v, exec (.retn c) s = .next t ∧ PopsIo s t v ∧ Returns s t v ∧ t.sr = s.sr ∧ t.iif = true))

/-- 43_control.md R184, R186: a RET right after a CALL comes back to the instruction after it with R7 restored, the stack
in plain memory. That CALL honours its condition is the spec's decision D9 (log 16). -/
def Obligations.RetAfterCall : Prop :=
  ∀ (s t : State) (c : Cond), Holds c s → PlainAt s (s.reg .r7 - 4#32) .word →
    ((∃ i, exec (.callAddr c i) s = .next t) ∨ (∃ r, exec (.callReg c r) s = .next t)) →
    ∃ u, exec (.ret .always) t = .next u ∧ u.pc = s.pc ∧ SameRegs s u ∧ u.sr = s.sr ∧
      SameMemoryBut s u (s.reg .r7 - 4#32) .word

/-- 44_system.md R200, R201: HALT taken stops the machine and changes nothing else, and no number of further steps
changes anything. That nothing restarts it is the spec's decision D23. -/
def Obligations.HaltStops : Prop :=
  ∀ (s : State) (c : Cond), Holds c s →
    ∃ t, exec (.halt c) s = .next t ∧ t.halted = true ∧ SameRegs s t ∧ t.sr = s.sr ∧ t.pc = s.pc ∧ SameMemory s t ∧
      t.io = s.io ∧ t.iif = s.iif ∧ t.lines = s.lines ∧ t.params = s.params ∧ t.draws = s.draws ∧
      ∀ k : Nat, Sys2Proof.core.run k t = .next t

/-! ## Rules over all instructions -/

/-- 10_state.md R30, R32: an instruction changes SR only if the table of R30 lists it, and GIE only by MOVE to SR or
RETI. That the instructions outside the flag rules leave SR alone is the spec's decision D16 (log 20, unsafe). -/
def Obligations.SrWriters : Prop :=
  ∀ (i : Instr) (s t : State), exec i s = .next t →
    (writesSr i = false → t.sr = s.sr) ∧ (¬ writesGie i → t.sr.gie = s.sr.gie)

/-- 10_state.md R33: a step changes IIF only by NMI entry, which clears it, or by RETN, which sets it. -/
def Obligations.IifChangers : Prop :=
  ∀ s t : State, step s = .next t → t.iif ≠ s.iif →
    (takenInterrupt s = some .nmi ∧ t.iif = false) ∨
    (takenInterrupt s = none ∧ t.iif = true ∧
      ∃ c ir u, fetch s.passBoundary = .ok (ir, u) ∧ decode s.params.opcodeMap ir = .ok (.retn c))

/-- 10_state.md R35: the halted flag is set only by a HALT whose condition holds, and no step clears it. -/
def Obligations.HaltedSetOnlyByHalt : Prop :=
  ∀ s t : State, step s = .next t →
    (s.halted = true → t.halted = true) ∧
    (s.halted = false → t.halted = true →
      ∃ c ir u, fetch s.passBoundary = .ok (ir, u) ∧ decode s.params.opcodeMap ir = .ok (.halt c) ∧ Holds c s)

/-- 10_state.md R25: every instruction that is not a control transfer leaves the pc at the incremented value. -/
def Obligations.PcOnlyByControlTransfers : Prop :=
  ∀ (i : Instr) (s t : State), exec i s = .next t → writesPc i = false → t.pc = s.pc

/-- 10_state.md R22, R23: an instruction writes its destination register and, where it uses the stack, R7; no other. -/
def Obligations.RegistersWritten : Prop :=
  ∀ (i : Instr) (s t : State), exec i s = .next t → ∀ r, r ∉ writtenRegs i → t.reg r = s.reg r

/-- 20_memory.md R53, R58: an instruction changes no byte of memory outside the bytes it stores to, at the address its
operands give; one that stores nothing changes none. -/
def Obligations.MemoryWritten : Prop :=
  ∀ (i : Instr) (s t : State), exec i s = .next t →
    (storeTarget i s = none → SameMemory s t) ∧
    (∀ a w, storeTarget i s = some (a, w) → SameMemoryBut s t a w)

/-- 40_alu.md R141, 41_move.md R151 to R153, 42_memory_ops.md R172, 43_control.md R189, 44_system.md R200 to R203,
60_exceptions.md R248: no instruction is refused, and a well-formed one stops only at an unpopulated address or an undefined
byte. A term with the reserved condition, which no word decodes to, stops as its word does (30_encoding.md R95). All
three stops are the model's choice: of the two treatments the spec offers, the fault at an undefined byte (log 2) and at
an unpopulated address (log 12), and that of the term (log 18). -/
def Obligations.InstructionsStopOnlyAtMemory : Prop :=
  ∀ (i : Instr) (s : State),
    (∀ r, exec i s ≠ .refused r) ∧
    (∀ f, i.WellFormed → exec i s = .fault f →
      (∃ a w d, f = .unmappedAccess a w d) ∨ (∃ a, f = .unwrittenRead a)) ∧
    (¬ i.WellFormed → exec i s = .fault (.reservedEncoding (encode s.params.opcodeMap i) (s.pc - 4#32)))

/-- 20_memory.md R68, R65: a step only adds to the record of device accesses, at most two of them, and no step changes
the parameters. That every access is recorded, reads too, is the model's choice (log 7). -/
def Obligations.DeviceRecordOnlyGrows : Prop :=
  ∀ s t : State, step s = .next t →
    (∃ e, t.io = s.io ++ e ∧ e.length ≤ 2) ∧ t.params = s.params

/-- 60_exceptions.md R254: with the default map, every register of the two device blocks is in `IO_REGION`, whatever
the width of the access. The default region is the spec's decision D26. -/
def Obligations.DeviceRegistersInIoRegion : Prop :=
  ∀ (d : DeviceReg) (w : Width), accessKind defaultMemMap (align d.address w) w = some .io

/-- 45_assembler.md R215: the assembler takes a value into the 20-bit field exactly when sign extension gives it back, as a
signed value or as a 32-bit address. -/
def Obligations.AssemblerFieldRange : Prop :=
  ∀ v : Int,
    (∀ f, Asm.field20 v = .ok f → (f.signExtend 32).toInt = v ∨ ((f.signExtend 32).toNat : Int) = v) ∧
    ((∃ f : Imm20, (f.signExtend 32).toInt = v ∨ ((f.signExtend 32).toNat : Int) = v) → ∃ f, Asm.field20 v = .ok f)

/-- 45_assembler.md R211, 43_control.md R183: the offset the assembler gives a JR at `a` makes the taken JR go to the
target, which is a 32-bit address. That a target outside that range is refused is the model's choice (log 27). -/
def Obligations.AssemblerRelativeField : Prop :=
  ∀ (a : Nat) (target : Int) (f : Imm20) (s : State), Asm.relField a target = .ok f →
    s.pc = BitVec.ofNat 32 (a + 4) →
    ∃ t, exec (.jr .always f) s = .next t ∧ (t.pc.toNat : Int) = target
end

