-- ==== Sys2Proof/Laws/State.lean ====
section
/-! SUPPORT. What each update of the state does to each field, and the register file's read-after-write laws. -/

namespace Sys2Proof.Machine

open Sys2Proof

/-! ## The register file -/

@[simp] theorem Regs.get_set_same (x : Regs) (r : Reg) (v : Word) : (x.set r v).get r = v := by
  cases r <;> rfl

@[simp] theorem Regs.get_set_other (x : Regs) (r q : Reg) (v : Word) (h : q ≠ r) :
    (x.set r v).get q = x.get q := by
  cases r <;> cases q <;> first | rfl | exact absurd rfl h

@[simp] theorem Regs.set_get (x : Regs) (r : Reg) : x.set r (x.get r) = x := by
  cases r <;> rfl

@[simp] theorem State.reg_setReg_same (s : State) (r : Reg) (v : Word) : (s.setReg r v).reg r = v :=
  Regs.get_set_same s.regs r v

@[simp] theorem State.reg_setReg_other (s : State) (r q : Reg) (v : Word) (h : q ≠ r) :
    (s.setReg r v).reg q = s.reg q :=
  Regs.get_set_other s.regs r q v h

/-! ## `State.setReg` -/

@[simp] theorem State.setReg_regs (s : State) (r : Reg) (v : Word) : (s.setReg r v).regs = s.regs.set r v := rfl
@[simp] theorem State.setReg_pc (s : State) (r : Reg) (v : Word) : (s.setReg r v).pc = s.pc := rfl
@[simp] theorem State.setReg_sr (s : State) (r : Reg) (v : Word) : (s.setReg r v).sr = s.sr := rfl
@[simp] theorem State.setReg_iif (s : State) (r : Reg) (v : Word) : (s.setReg r v).iif = s.iif := rfl
@[simp] theorem State.setReg_halted (s : State) (r : Reg) (v : Word) : (s.setReg r v).halted = s.halted := rfl
@[simp] theorem State.setReg_mem (s : State) (r : Reg) (v : Word) : (s.setReg r v).mem = s.mem := rfl
@[simp] theorem State.setReg_io (s : State) (r : Reg) (v : Word) : (s.setReg r v).io = s.io := rfl
@[simp] theorem State.setReg_lines (s : State) (r : Reg) (v : Word) : (s.setReg r v).lines = s.lines := rfl
@[simp] theorem State.setReg_draws (s : State) (r : Reg) (v : Word) : (s.setReg r v).draws = s.draws := rfl
@[simp] theorem State.setReg_params (s : State) (r : Reg) (v : Word) : (s.setReg r v).params = s.params := rfl

/-! ## `State.setPc` -/

@[simp] theorem State.setPc_regs (s : State) (t : Word) : (s.setPc t).regs = s.regs := rfl
@[simp] theorem State.setPc_pc (s : State) (t : Word) : (s.setPc t).pc = t := rfl
@[simp] theorem State.setPc_sr (s : State) (t : Word) : (s.setPc t).sr = s.sr := rfl
@[simp] theorem State.setPc_iif (s : State) (t : Word) : (s.setPc t).iif = s.iif := rfl
@[simp] theorem State.setPc_halted (s : State) (t : Word) : (s.setPc t).halted = s.halted := rfl
@[simp] theorem State.setPc_mem (s : State) (t : Word) : (s.setPc t).mem = s.mem := rfl
@[simp] theorem State.setPc_io (s : State) (t : Word) : (s.setPc t).io = s.io := rfl
@[simp] theorem State.setPc_lines (s : State) (t : Word) : (s.setPc t).lines = s.lines := rfl
@[simp] theorem State.setPc_draws (s : State) (t : Word) : (s.setPc t).draws = s.draws := rfl
@[simp] theorem State.setPc_params (s : State) (t : Word) : (s.setPc t).params = s.params := rfl
@[simp] theorem State.setPc_reg (s : State) (t : Word) (q : Reg) : (s.setPc t).reg q = s.reg q := rfl

/-! ## `State.setSr` -/

@[simp] theorem State.setSr_regs (s : State) (x : Status) : (s.setSr x).regs = s.regs := rfl
@[simp] theorem State.setSr_pc (s : State) (x : Status) : (s.setSr x).pc = s.pc := rfl
@[simp] theorem State.setSr_sr (s : State) (x : Status) : (s.setSr x).sr = x := rfl
@[simp] theorem State.setSr_iif (s : State) (x : Status) : (s.setSr x).iif = s.iif := rfl
@[simp] theorem State.setSr_halted (s : State) (x : Status) : (s.setSr x).halted = s.halted := rfl
@[simp] theorem State.setSr_mem (s : State) (x : Status) : (s.setSr x).mem = s.mem := rfl
@[simp] theorem State.setSr_io (s : State) (x : Status) : (s.setSr x).io = s.io := rfl
@[simp] theorem State.setSr_lines (s : State) (x : Status) : (s.setSr x).lines = s.lines := rfl
@[simp] theorem State.setSr_draws (s : State) (x : Status) : (s.setSr x).draws = s.draws := rfl
@[simp] theorem State.setSr_params (s : State) (x : Status) : (s.setSr x).params = s.params := rfl
@[simp] theorem State.setSr_reg (s : State) (x : Status) (q : Reg) : (s.setSr x).reg q = s.reg q := rfl

/-! ## `State.spend` -/

@[simp] theorem State.spend_regs (s : State) (k : Nat) : (s.spend k).regs = s.regs := rfl
@[simp] theorem State.spend_pc (s : State) (k : Nat) : (s.spend k).pc = s.pc := rfl
@[simp] theorem State.spend_sr (s : State) (k : Nat) : (s.spend k).sr = s.sr := rfl
@[simp] theorem State.spend_iif (s : State) (k : Nat) : (s.spend k).iif = s.iif := rfl
@[simp] theorem State.spend_halted (s : State) (k : Nat) : (s.spend k).halted = s.halted := rfl
@[simp] theorem State.spend_mem (s : State) (k : Nat) : (s.spend k).mem = s.mem := rfl
@[simp] theorem State.spend_io (s : State) (k : Nat) : (s.spend k).io = s.io := rfl
@[simp] theorem State.spend_lines (s : State) (k : Nat) : (s.spend k).lines = s.lines := rfl
@[simp] theorem State.spend_draws (s : State) (k : Nat) : (s.spend k).draws = s.draws + k := rfl
@[simp] theorem State.spend_params (s : State) (k : Nat) : (s.spend k).params = s.params := rfl
@[simp] theorem State.spend_reg (s : State) (k : Nat) (q : Reg) : (s.spend k).reg q = s.reg q := rfl

/-! ## `State.passBoundary` -/

@[simp] theorem State.passBoundary_regs (s : State) : (s.passBoundary).regs = s.regs := rfl
@[simp] theorem State.passBoundary_pc (s : State) : (s.passBoundary).pc = s.pc := rfl
@[simp] theorem State.passBoundary_sr (s : State) : (s.passBoundary).sr = s.sr := rfl
@[simp] theorem State.passBoundary_iif (s : State) : (s.passBoundary).iif = s.iif := rfl
@[simp] theorem State.passBoundary_halted (s : State) : (s.passBoundary).halted = s.halted := rfl
@[simp] theorem State.passBoundary_mem (s : State) : (s.passBoundary).mem = s.mem := rfl
@[simp] theorem State.passBoundary_io (s : State) : (s.passBoundary).io = s.io := rfl
@[simp] theorem State.passBoundary_lines (s : State) : (s.passBoundary).lines = s.lines.pass := rfl
@[simp] theorem Lines.pass_given (ls : Lines) : ls.pass.given = ls.given.tail := rfl
@[simp] theorem Lines.pass_source (ls : Lines) : ls.pass.source = ls.source := rfl
@[simp] theorem Lines.pass_passed (ls : Lines) : ls.pass.passed = ls.passed + 1 := rfl
@[simp] theorem State.passBoundary_draws (s : State) : (s.passBoundary).draws = s.draws := rfl
@[simp] theorem State.passBoundary_params (s : State) : (s.passBoundary).params = s.params := rfl
@[simp] theorem State.passBoundary_reg (s : State) (q : Reg) : (s.passBoundary).reg q = s.reg q := rfl

/-! ## `State.setEnable` -/

@[simp] theorem State.setEnable_regs (s : State) (l : Level) (on : Bool) : (s.setEnable l on).regs = s.regs := by
  cases l <;> rfl
@[simp] theorem State.setEnable_pc (s : State) (l : Level) (on : Bool) : (s.setEnable l on).pc = s.pc := by
  cases l <;> rfl
@[simp] theorem State.setEnable_halted (s : State) (l : Level) (on : Bool) : (s.setEnable l on).halted = s.halted := by
  cases l <;> rfl
@[simp] theorem State.setEnable_mem (s : State) (l : Level) (on : Bool) : (s.setEnable l on).mem = s.mem := by
  cases l <;> rfl
@[simp] theorem State.setEnable_io (s : State) (l : Level) (on : Bool) : (s.setEnable l on).io = s.io := by
  cases l <;> rfl
@[simp] theorem State.setEnable_lines (s : State) (l : Level) (on : Bool) : (s.setEnable l on).lines = s.lines := by
  cases l <;> rfl
@[simp] theorem State.setEnable_draws (s : State) (l : Level) (on : Bool) : (s.setEnable l on).draws = s.draws := by
  cases l <;> rfl
@[simp] theorem State.setEnable_params (s : State) (l : Level) (on : Bool) : (s.setEnable l on).params = s.params := by
  cases l <;> rfl
@[simp] theorem State.setEnable_reg (s : State) (l : Level) (on : Bool) (q : Reg) :
    (s.setEnable l on).reg q = s.reg q := by
  cases l <;> rfl
@[simp] theorem State.setEnable_int0_sr (s : State) (on : Bool) :
    (s.setEnable .int0 on).sr = { s.sr with gie := on } := rfl
@[simp] theorem State.setEnable_int0_iif (s : State) (on : Bool) : (s.setEnable .int0 on).iif = s.iif := rfl
@[simp] theorem State.setEnable_nmi_sr (s : State) (on : Bool) : (s.setEnable .nmi on).sr = s.sr := rfl
@[simp] theorem State.setEnable_nmi_iif (s : State) (on : Bool) : (s.setEnable .nmi on).iif = on := rfl

/-! ## `State.applyReset` -/

@[simp] theorem State.applyReset_regs (s : State) : (s.applyReset).regs = s.regs := rfl
@[simp] theorem State.applyReset_pc (s : State) : (s.applyReset).pc = s.params.resetState.pc := rfl
@[simp] theorem State.applyReset_sr (s : State) : (s.applyReset).sr = s.params.resetState.sr := rfl
@[simp] theorem State.applyReset_iif (s : State) : (s.applyReset).iif = s.params.resetState.iif := rfl
@[simp] theorem State.applyReset_halted (s : State) : (s.applyReset).halted = false := rfl
@[simp] theorem State.applyReset_mem (s : State) : (s.applyReset).mem = s.mem := rfl
@[simp] theorem State.applyReset_io (s : State) : (s.applyReset).io = s.io := rfl
@[simp] theorem State.applyReset_lines (s : State) : (s.applyReset).lines = s.lines := rfl
@[simp] theorem State.applyReset_draws (s : State) : (s.applyReset).draws = s.draws := rfl
@[simp] theorem State.applyReset_params (s : State) : (s.applyReset).params = s.params := rfl
@[simp] theorem State.applyReset_reg (s : State) (q : Reg) : (s.applyReset).reg q = s.reg q := rfl

/-- `State.reset` is a state that `State.applyReset` leaves alone: both read the one `RESET_STATE`. -/
theorem State.reset_applyReset : State.reset.applyReset = State.reset := rfl

/-! ## `State.reg` through a record update that leaves the registers alone -/

@[simp] theorem State.reg_withMem (s : State) (m : Memory) (q : Reg) : ({ s with mem := m } : State).reg q = s.reg q := rfl
@[simp] theorem State.reg_withIo (s : State) (e : List Config.IoEvent) (q : Reg) :
    ({ s with io := e } : State).reg q = s.reg q := rfl
@[simp] theorem State.reg_withHalted (s : State) (b : Bool) (q : Reg) :
    ({ s with halted := b } : State).reg q = s.reg q := rfl

end Sys2Proof.Machine
end

