-- ==== Sys2Proof/Laws/Access.lean ====
section
/-! SUPPORT. For each shared operation, one lemma that says everything it can do when it succeeds. -/

namespace Sys2Proof.Machine

open Sys2Proof Host

/-- A read is answered by the environment, and then the access is recorded, or by plain memory, and then nothing
changes. -/
theorem memRead_cases {s t : State} {addr v : Word} {w : Width} (h : memRead s addr w = .ok (v, t)) :
    (accessKind s.params.memMap (align addr w) w = some .io ∧
      v = lowBits w (Config.ioAnswer s.io (align addr w) w) ∧
      t = { s with io := s.io ++ [.read (align addr w) w v] }) ∨
    (accessKind s.params.memMap (align addr w) w = some .plain ∧ s.mem.load (align addr w) w = .ok v ∧ t = s) := by
  unfold memRead at h
  dsimp only at h
  split at h
  · cases h
  · next hk =>
    cases h
    exact Or.inl ⟨hk, rfl, rfl⟩
  · next hk =>
    split at h
    · next hl =>
      cases h
      exact Or.inr ⟨hk, hl, rfl⟩
    · cases h

/-- A read of plain memory whose bytes are defined gives their value and changes nothing. -/
theorem memRead_plain {s : State} {addr v : Word} {w : Width}
    (hk : accessKind s.params.memMap (align addr w) w = some .plain) (hl : s.mem.load (align addr w) w = .ok v) :
    memRead s addr w = .ok (v, s) := by
  simp only [memRead, hk, hl]

/-- A read changes nothing but the record of device accesses. -/
theorem memRead_state {s t : State} {addr v : Word} {w : Width} (h : memRead s addr w = .ok (v, t)) :
    ∃ e, t = { s with io := s.io ++ e } := by
  rcases memRead_cases h with ⟨_, _, rfl⟩ | ⟨_, _, rfl⟩
  · exact ⟨_, rfl⟩
  · exact ⟨[], by simp⟩

/-- A write is an output event and changes no byte of memory, or it stores to plain memory. -/
theorem memWrite_cases {s t : State} {addr v : Word} {w : Width} (h : memWrite s addr w v = .ok t) :
    (accessKind s.params.memMap (align addr w) w = some .io ∧
      t = { s with io := s.io ++ [.write (align addr w) w (lowBits w v)] }) ∨
    (accessKind s.params.memMap (align addr w) w = some .plain ∧
      t = { s with mem := s.mem.store (align addr w) w v }) := by
  unfold memWrite at h
  dsimp only at h
  split at h
  · cases h
  · next hk =>
    cases h
    exact Or.inl ⟨hk, rfl⟩
  · next hk =>
    cases h
    exact Or.inr ⟨hk, rfl⟩

/-- A write to plain memory succeeds. -/
theorem memWrite_plain {s : State} {addr v : Word} {w : Width}
    (hk : accessKind s.params.memMap (align addr w) w = some .plain) :
    memWrite s addr w v = .ok { s with mem := s.mem.store (align addr w) w v } := by
  simp only [memWrite, hk]

/-- A write changes nothing but memory or the record of device accesses. -/
theorem memWrite_state {s t : State} {addr v : Word} {w : Width} (h : memWrite s addr w v = .ok t) :
    ∃ e m, t = { s with io := s.io ++ e, mem := m } := by
  rcases memWrite_cases h with ⟨_, rfl⟩ | ⟨_, rfl⟩
  · exact ⟨_, s.mem, rfl⟩
  · exact ⟨[], s.mem.store (align addr w) w v, by simp⟩

/-- A push is a write at the decremented stack pointer. -/
theorem pushWord_cases {s t : State} {v : Word} (h : pushWord s v = .ok t) :
    memWrite (s.setReg .r7 (s.reg .r7 - 4#32)) (s.reg .r7 - 4#32) .word v = .ok t := h

/-- A pop is a read at the stack pointer, which then goes up. -/
theorem popWord_cases {s t : State} {v : Word} (h : popWord s = .ok (v, t)) :
    ∃ u, memRead s (s.reg .r7) .word = .ok (v, u) ∧ t = u.setReg .r7 (s.reg .r7 + 4#32) := by
  unfold popWord at h
  split at h
  · cases h
  · next hr =>
    cases h
    exact ⟨_, hr, rfl⟩

/-- Popping the pc is a pop whose value goes to the pc. -/
theorem popPc_cases {s t : State} (h : popPc s = .ok t) :
    ∃ v u, popWord s = .ok (v, u) ∧ t = u.setPc v := by
  unfold popPc at h
  split at h
  · cases h
  · next hp =>
    cases h
    exact ⟨_, _, hp, rfl⟩

/-- Taking an interrupt clears its enable, pushes the pc and goes to the handler. -/
theorem enterInterrupt_cases {s t : State} {l : Level} (h : enterInterrupt s l = .ok t) :
    ∃ u v x, pushWord (s.setEnable l false) s.pc = .ok u ∧ handlerAddress u l = .ok (x, v) ∧ t = v.setPc x := by
  unfold enterInterrupt at h
  split at h
  · cases h
  · next hp =>
    split at h
    · cases h
    · next hh =>
      cases h
      exact ⟨_, _, _, hp, hh, rfl⟩

/-- Returning from an interrupt pops the pc and sets its enable. -/
theorem leaveInterrupt_cases {s t : State} {l : Level} (h : leaveInterrupt s l = .ok t) :
    ∃ u, popPc s = .ok u ∧ t = u.setEnable l true := by
  unfold leaveInterrupt at h
  split at h
  · cases h
  · next hp =>
    cases h
    exact ⟨_, hp, rfl⟩

/-- A fetch is a read at the pc, which then moves past the word. -/
theorem fetch_cases {s t : State} {ir : Word} (h : fetch s = .ok (ir, t)) :
    (s.params.fetchMode = .mask ∨ s.pc &&& 3#32 = 0#32) ∧
    ∃ u, memRead s s.pc .word = .ok (ir, u) ∧ t = u.setPc (s.pc + 4#32) := by
  unfold fetch at h
  split at h
  · cases h
  · next hm =>
    constructor
    · cases hf : s.params.fetchMode with
      | mask => exact Or.inl rfl
      | fault =>
        right
        by_contra hne
        exact hm ⟨hf, hne⟩
    · split at h
      · cases h
      · next hr =>
        cases h
        exact ⟨_, hr, rfl⟩

@[simp] theorem finish_next {r : Except Fault State} {t : State} : finish r = .next t ↔ r = .ok t := by
  cases r <;> simp [finish]

/-- An instruction with a condition either finds it false, and does nothing, or finds it true and has its effect. -/
theorem whenHolds_cases {i : Instr} {s t : State} {taken : Except Fault State} (h : whenHolds i s taken = .next t) :
    (condHolds i.cond s.sr = some false ∧ t = s) ∨ (condHolds i.cond s.sr = some true ∧ taken = .ok t) := by
  unfold whenHolds at h
  split at h
  · cases h
  · next hc =>
    cases h
    exact Or.inl ⟨hc, rfl⟩
  · next hc => exact Or.inr ⟨hc, finish_next.mp h⟩

/-- A step that goes on: halted and unchanged, an interrupt taken, or one instruction fetched, decoded and run. -/
theorem step_cases {s t : State} (h : step s = .next t) :
    (s.halted = true ∧ t = s) ∨
    (s.halted = false ∧ ∃ l, takenInterrupt s = some l ∧ enterInterrupt s.passBoundary l = .ok t) ∨
    (s.halted = false ∧ takenInterrupt s = none ∧
      ∃ ir u i, fetch s.passBoundary = .ok (ir, u) ∧ decode s.params.opcodeMap ir = .ok i ∧ exec i u = .next t) := by
  unfold step at h
  split at h
  · next hh =>
    cases h
    exact Or.inl ⟨hh, rfl⟩
  · next hh =>
    right
    have hh' : s.halted = false := by simpa using hh
    split at h
    · next l hl => exact Or.inl ⟨hh', l, hl, finish_next.mp h⟩
    · next hn =>
      right
      split at h
      · cases h
      · next hf =>
        split at h
        · cases h
        · next hd => exact ⟨hh', hn, _, _, _, hf, hd, h⟩

end Sys2Proof.Machine
end

