-- ==== Sys2Proof/Laws/Encoding.lean ====
section
/-! SUPPORT. Slices of concatenations, words and their bytes, and the fields of the encoder's words. -/

namespace Sys2Proof

/-! ## Slices -/

theorem slice_high {m n : Nat} (x : BitVec m) (y : BitVec n) (k l : Nat) (h : n ≤ k) :
    (x ++ y).extractLsb' k l = x.extractLsb' (k - n) l := by
  ext i hi
  simp only [BitVec.getElem_extractLsb', BitVec.getLsbD_append]
  rw [if_neg (by omega)]
  congr 1
  omega

theorem slice_low {m n : Nat} (x : BitVec m) (y : BitVec n) (k l : Nat) (h : k + l ≤ n) :
    (x ++ y).extractLsb' k l = y.extractLsb' k l := by
  ext i hi
  simp only [BitVec.getElem_extractLsb', BitVec.getLsbD_append]
  rw [if_pos (by omega)]

theorem slice_all {n : Nat} (x : BitVec n) : x.extractLsb' 0 n = x := by
  ext i hi
  simp

/-! ## Words and their bytes -/

theorem byteOfWord_wordOfBytes (b0 b1 b2 b3 : Byte) :
    byteOfWord (wordOfBytes b0 b1 b2 b3) 0 = b0 ∧ byteOfWord (wordOfBytes b0 b1 b2 b3) 1 = b1 ∧
    byteOfWord (wordOfBytes b0 b1 b2 b3) 2 = b2 ∧ byteOfWord (wordOfBytes b0 b1 b2 b3) 3 = b3 := by
  unfold byteOfWord wordOfBytes
  simp (disch := omega) only [slice_high, slice_low, slice_all, Nat.mul_zero, Nat.mul_one, Nat.reduceMul,
    Nat.reduceSub, and_self]

@[simp] theorem wordOfBytes_byteOfWord (w : Word) :
    wordOfBytes (byteOfWord w 0) (byteOfWord w 1) (byteOfWord w 2) (byteOfWord w 3) = w := by
  unfold byteOfWord wordOfBytes
  apply BitVec.eq_of_getLsbD_eq
  intro i hi
  simp only [BitVec.getLsbD_append, BitVec.getLsbD_extractLsb']
  repeat' split
  all_goals
    simp (disch := omega) only [decide_eq_true, Bool.true_and]
    congr 1
    omega

/-! ## Names and their codes -/

@[simp] theorem Reg.ofBits_bits (r : Reg) : Reg.ofBits r.bits = r := by cases r <;> rfl

@[simp] theorem Cond.ofBits_bits (c : Cond) : Cond.ofBits c.bits = c := by cases c <;> rfl

theorem mem_allOps (op : Op) : op ∈ allOps := by cases op <;> decide

/-- What an opcode number names has that number. -/
theorem code_of_opOf {m : Config.OpcodeMap} {n : BitVec 5} {op : Op} (h : opOf m n = some op) : m.code op = n := by
  simpa using List.find?_some h

/-- Under a map without repeats an operation's number names it. -/
theorem opOf_code {m : Config.OpcodeMap} (h : m.Distinct) (op : Op) : opOf m (m.code op) = some op := by
  cases hf : opOf m (m.code op) with
  | none => exact absurd (List.find?_eq_none.mp hf op (mem_allOps op)) (by simp)
  | some q =>
    have hq : m.code q = m.code op := code_of_opOf hf
    exact congrArg some (List.inj_on_of_nodup_map h (mem_allOps q) (mem_allOps op) hq)

/-- A number is reserved when no operation has it (30_encoding.md R89). -/
theorem opOf_none {m : Config.OpcodeMap} {n : BitVec 5} : opOf m n = none ↔ ∀ op, m.code op ≠ n := by
  simp [opOf, mem_allOps]

theorem defaultOpcodeMap_distinct : defaultOpcodeMap.Distinct := by decide

/-! ## The fields of the encoder's words -/

@[simp] theorem opcodeField_packR (n : BitVec 5) (d a b : BitVec 3) : opcodeField (packR n d a b) = n := by
  unfold opcodeField packR
  simp (disch := omega) only [slice_high, slice_all, Nat.reduceSub]

@[simp] theorem modeBit_packR (n : BitVec 5) (d a b : BitVec 3) : modeBit (packR n d a b) = 0#1 := by
  unfold modeBit packR
  simp (disch := omega) only [slice_high, slice_low, slice_all, Nat.reduceSub]

@[simp] theorem destField_packR (n : BitVec 5) (d a b : BitVec 3) : destField (packR n d a b) = Reg.ofBits d := by
  unfold destField packR
  simp (disch := omega) only [slice_high, slice_low, slice_all, Nat.reduceSub]

@[simp] theorem src1Field_packR (n : BitVec 5) (d a b : BitVec 3) : src1Field (packR n d a b) = Reg.ofBits a := by
  unfold src1Field packR
  simp (disch := omega) only [slice_high, slice_low, slice_all, Nat.reduceSub]

@[simp] theorem src2Field_packR (n : BitVec 5) (d a b : BitVec 3) : src2Field (packR n d a b) = Reg.ofBits b := by
  unfold src2Field packR
  simp (disch := omega) only [slice_high, slice_low, slice_all, Nat.reduceSub]

@[simp] theorem low17_packR (n : BitVec 5) (d a b : BitVec 3) : low17 (packR n d a b) = 0#17 := by
  unfold low17 packR
  simp (disch := omega) only [slice_low, slice_all]

@[simp] theorem immField_packR (n : BitVec 5) (d a b : BitVec 3) : immField (packR n d a b) = b ++ 0#17 := by
  unfold immField packR
  apply BitVec.eq_of_getLsbD_eq
  intro i hi
  simp only [BitVec.getLsbD_extractLsb', BitVec.getLsbD_append, hi, decide_true, Bool.true_and, Nat.zero_add]
  split
  · rfl
  · rw [if_pos (by omega)]

@[simp] theorem opcodeField_packI (n : BitVec 5) (m : BitVec 1) (d a : BitVec 3) (i : Imm20) :
    opcodeField (packI n m d a i) = n := by
  unfold opcodeField packI
  simp (disch := omega) only [slice_high, slice_all, Nat.reduceSub]

@[simp] theorem modeBit_packI (n : BitVec 5) (m : BitVec 1) (d a : BitVec 3) (i : Imm20) :
    modeBit (packI n m d a i) = m := by
  unfold modeBit packI
  simp (disch := omega) only [slice_high, slice_low, slice_all, Nat.reduceSub]

@[simp] theorem destField_packI (n : BitVec 5) (m : BitVec 1) (d a : BitVec 3) (i : Imm20) :
    destField (packI n m d a i) = Reg.ofBits d := by
  unfold destField packI
  simp (disch := omega) only [slice_high, slice_low, slice_all, Nat.reduceSub]

@[simp] theorem src1Field_packI (n : BitVec 5) (m : BitVec 1) (d a : BitVec 3) (i : Imm20) :
    src1Field (packI n m d a i) = Reg.ofBits a := by
  unfold src1Field packI
  simp (disch := omega) only [slice_high, slice_low, slice_all, Nat.reduceSub]

@[simp] theorem immField_packI (n : BitVec 5) (m : BitVec 1) (d a : BitVec 3) (i : Imm20) :
    immField (packI n m d a i) = i := by
  unfold immField packI
  simp (disch := omega) only [slice_low, slice_all]

@[simp] theorem opcodeField_packC (n : BitVec 5) (c : Cond) (i : Imm20) : opcodeField (packC n c i) = n := by
  unfold opcodeField packC
  simp (disch := omega) only [slice_high, slice_all, Nat.reduceSub]

@[simp] theorem modeBit_packC (n : BitVec 5) (c : Cond) (i : Imm20) : modeBit (packC n c i) = 0#1 := by
  unfold modeBit packC
  simp (disch := omega) only [slice_high, slice_low, slice_all, Nat.reduceSub]

@[simp] theorem condField_packC (n : BitVec 5) (c : Cond) (i : Imm20) : condField (packC n c i) = c := by
  unfold condField packC
  simp (disch := omega) only [slice_high, slice_low, slice_all, Nat.reduceSub, Cond.ofBits_bits]

@[simp] theorem gapField_packC (n : BitVec 5) (c : Cond) (i : Imm20) : gapField (packC n c i) = 0#2 := by
  unfold gapField packC
  simp (disch := omega) only [slice_high, slice_low, slice_all, Nat.reduceSub]

@[simp] theorem immField_packC (n : BitVec 5) (c : Cond) (i : Imm20) : immField (packC n c i) = i := by
  unfold immField packC
  simp (disch := omega) only [slice_low, slice_all]

@[simp] theorem opcodeField_packCReg (n : BitVec 5) (c : Cond) (r : Reg) :
    opcodeField (packCReg n c r) = n := by
  unfold opcodeField packCReg
  simp (disch := omega) only [slice_high, slice_all, Nat.reduceSub]

@[simp] theorem modeBit_packCReg (n : BitVec 5) (c : Cond) (r : Reg) : modeBit (packCReg n c r) = 1#1 := by
  unfold modeBit packCReg
  simp (disch := omega) only [slice_high, slice_low, slice_all, Nat.reduceSub]

@[simp] theorem condField_packCReg (n : BitVec 5) (c : Cond) (r : Reg) : condField (packCReg n c r) = c := by
  unfold condField packCReg
  simp (disch := omega) only [slice_high, slice_low, slice_all, Nat.reduceSub, Cond.ofBits_bits]

@[simp] theorem gapField_packCReg (n : BitVec 5) (c : Cond) (r : Reg) : gapField (packCReg n c r) = 0#2 := by
  unfold gapField packCReg
  simp (disch := omega) only [slice_high, slice_low, slice_all, Nat.reduceSub]

@[simp] theorem src2Field_packCReg (n : BitVec 5) (c : Cond) (r : Reg) : src2Field (packCReg n c r) = r := by
  unfold src2Field packCReg
  simp (disch := omega) only [slice_high, slice_low, slice_all, Nat.reduceSub, Reg.ofBits_bits]

@[simp] theorem low17_packCReg (n : BitVec 5) (c : Cond) (r : Reg) : low17 (packCReg n c r) = 0#17 := by
  unfold low17 packCReg
  simp (disch := omega) only [slice_low, slice_all]

end Sys2Proof
end

