-- ==== Sys2Proof/Laws/Memory.lean ====
section
/-! SUPPORT. The laws of plain memory: read after write, and the canonical form kept by every operation. -/

namespace Sys2Proof.Machine

open Sys2Proof Host

/-! ## Reading after writing -/

@[simp] theorem Memory.read_write_same (m : Memory) (a : Nat) (b : Byte) : (m.write a b).read a = some b := by
  induction m with
  | nil => simp [Memory.write, Memory.read]
  | cons c rest ih =>
    obtain ⟨k, d⟩ := c
    rcases Nat.lt_trichotomy a k with h | h | h
    · simp [Memory.write, Memory.read, h, Nat.ne_of_lt h]
    · simp [Memory.write, Memory.read, h]
    · have h1 : ¬ a = k := by omega
      have h2 : ¬ a < k := by omega
      simp [Memory.write, Memory.read, h1, h2, ih]

theorem Memory.read_write_other (m : Memory) (a c : Nat) (b : Byte) (h : c ≠ a) :
    (m.write a b).read c = m.read c := by
  induction m with
  | nil => simp [Memory.write, Memory.read, h]
  | cons x rest ih =>
    obtain ⟨k, d⟩ := x
    by_cases hk : a = k
    · subst hk
      simp [Memory.write, Memory.read, h]
    · by_cases hlt : a < k
      · rw [show Memory.write ((k, d) :: rest) a b = (a, b) :: (k, d) :: rest by simp [Memory.write, hk, hlt]]
        rw [show Memory.read ((a, b) :: (k, d) :: rest) c
              = if c < a then Memory.unlisted else Memory.read ((k, d) :: rest) c by simp [Memory.read, h]]
        split
        · simp [Memory.read, show ¬ c = k by omega, show c < k by omega]
        · rfl
      · rw [show Memory.write ((k, d) :: rest) a b = (k, d) :: Memory.write rest a b by
            simp [Memory.write, hk, hlt]]
        simp [Memory.read, ih]

/-! ## The canonical form -/

theorem Memory.risingFrom_mono (m : Memory) (lo hi : Nat) (h : lo ≤ hi) (hm : Memory.risingFrom hi m = true) :
    Memory.risingFrom lo m = true := by
  cases m with
  | nil => rfl
  | cons c rest =>
    obtain ⟨k, d⟩ := c
    simp only [Memory.risingFrom, Bool.and_eq_true, decide_eq_true_eq] at hm ⊢
    exact ⟨by omega, hm.2⟩

theorem Memory.risingFrom_write (m : Memory) (lo a : Nat) (b : Byte) (ha : lo ≤ a)
    (hm : Memory.risingFrom lo m = true) : Memory.risingFrom lo (m.write a b) = true := by
  induction m generalizing lo with
  | nil => simp [Memory.write, Memory.risingFrom, ha]
  | cons c rest ih =>
    obtain ⟨k, d⟩ := c
    simp only [Memory.risingFrom, Bool.and_eq_true, decide_eq_true_eq] at hm
    rcases Nat.lt_trichotomy a k with h | h | h
    · simp only [Memory.write, if_neg (Nat.ne_of_lt h), if_pos h, Memory.risingFrom, Bool.and_eq_true,
        decide_eq_true_eq]
      exact ⟨ha, by omega, hm.2⟩
    · subst h
      simpa [Memory.write, Memory.risingFrom] using hm
    · simp only [Memory.write, if_neg (show ¬ a = k by omega), if_neg (show ¬ a < k by omega), Memory.risingFrom,
        Bool.and_eq_true, decide_eq_true_eq]
      exact ⟨hm.1, ih (k + 1) (by omega) hm.2⟩

/-- Where an entry of a written memory comes from. -/
theorem Memory.mem_write (m : Memory) (a : Nat) (b : Byte) (c : Cell) (h : c ∈ m.write a b) :
    c = (a, b) ∨ c ∈ m := by
  induction m with
  | nil => simpa [Memory.write] using h
  | cons x rest ih =>
    obtain ⟨k, d⟩ := x
    simp only [Memory.write] at h
    split at h
    · rcases List.mem_cons.mp h with h | h
      · exact Or.inl h
      · exact Or.inr (List.mem_cons_of_mem _ h)
    · split at h
      · exact List.mem_cons.mp h
      · rcases List.mem_cons.mp h with h | h
        · exact Or.inr (h ▸ List.mem_cons_self)
        · rcases ih h with h | h
          · exact Or.inl h
          · exact Or.inr (List.mem_cons_of_mem _ h)

/-- Nothing reads as undefined once it is listed, so the second clause of the form costs nothing. -/
theorem Memory.all_listed (m : Memory) : m.all (fun cell => some cell.2 != Memory.unlisted) = true := by
  simp [Memory.unlisted]

theorem Memory.wf_iff (m : Memory) : m.wf = true ↔ Memory.risingFrom 0 m = true := by
  simp [Memory.wf, Memory.all_listed]

/-- A write keeps the canonical form. -/
theorem Memory.wf_write (m : Memory) (a : Nat) (b : Byte) (h : m.wf = true) : (m.write a b).wf = true := by
  rw [Memory.wf_iff] at h ⊢
  exact Memory.risingFrom_write m 0 a b (Nat.zero_le a) h

/-- A store keeps the canonical form. -/
theorem Memory.wf_store (m : Memory) (a : Word) (w : Width) (v : Word) (h : m.wf = true) :
    (m.store a w v).wf = true := by
  cases w <;> simp only [Memory.store] <;> repeat' apply Memory.wf_write
  all_goals exact h

end Sys2Proof.Machine
end

