-- ==== Sys2Proof/Laws/Alignment.lean ====
section
/-! SUPPORT. Aligned accesses: they never wrap, what a store leaves at each address, and when a load of plain memory
succeeds. -/

namespace Sys2Proof.Machine

open Sys2Proof Host

/-! ## Alignment -/

/-- An aligned address is a multiple of the access's width. -/
theorem align_mod (a : Word) (w : Width) : (align a w).toNat % w.bytes = 0 := by
  cases w
  · exact Nat.mod_one _
  · show (a &&& 0xFFFFFFFE#32).toNat % 2 = 0
    have h : (a &&& 0xFFFFFFFE#32) &&& 1#32 = 0#32 := by
      rw [BitVec.and_assoc]
      exact BitVec.and_zero
    have h2 := congrArg BitVec.toNat h
    rw [BitVec.toNat_and] at h2
    simpa [Nat.and_one_is_mod] using h2
  · show (a &&& 0xFFFFFFFC#32).toNat % 4 = 0
    have h : (a &&& 0xFFFFFFFC#32) &&& 3#32 = 0#32 := by
      rw [BitVec.and_assoc]
      exact BitVec.and_zero
    have h2 := congrArg BitVec.toNat h
    rw [BitVec.toNat_and] at h2
    have h3 := Nat.and_two_pow_sub_one_eq_mod (a &&& 0xFFFFFFFC#32).toNat 2
    rw [show (3#32).toNat = 2 ^ 2 - 1 from rfl, h3] at h2
    exact h2

/-- An aligned access does not wrap at the top of the address space (20_memory.md R55). -/
theorem align_end (a : Word) (w : Width) : (align a w).toNat + w.bytes ≤ 2 ^ 32 := by
  have h := align_mod a w
  have hl := (align a w).isLt
  cases w <;> simp only [Width.bytes] at h ⊢ <;> omega

/-- The address of a later byte of an access that does not wrap. -/
theorem toNat_add_byte (a : Word) (k : Nat) (h : a.toNat + k < 2 ^ 32) : (a + BitVec.ofNat 32 k).toNat = a.toNat + k := by
  rw [BitVec.toNat_add, BitVec.toNat_ofNat, Nat.add_mod_mod, Nat.mod_eq_of_lt h]

/-! ## Stores -/

/-- What a store that does not wrap leaves at each address. -/
theorem Memory.read_store (m : Memory) (a : Word) (w : Width) (v : Word) (h : a.toNat + w.bytes ≤ 2 ^ 32) (x : Nat) :
    (m.store a w v).read x =
      if a.toNat ≤ x ∧ x < a.toNat + w.bytes then some (byteOfWord v (x - a.toNat)) else m.read x := by
  have hr (m : Memory) (c : Nat) (b : Byte) (y : Nat) : (m.write c b).read y = if y = c then some b else m.read y := by
    split
    · next e => rw [e, Memory.read_write_same]
    · next e => exact Memory.read_write_other m c y b e
  have h1 (k : Nat) (hk : k < w.bytes) : (a + BitVec.ofNat 32 k).toNat = a.toNat + k :=
    toNat_add_byte a k (by omega)
  by_cases hc : a.toNat ≤ x ∧ x < a.toNat + w.bytes
  · rw [if_pos hc]
    obtain ⟨k, rfl⟩ : ∃ k, x = a.toNat + k := ⟨x - a.toNat, by omega⟩
    have hk : k < w.bytes := by omega
    rw [Nat.add_sub_cancel_left]
    cases w
    · have e0 : k = 0 := by simp only [Width.bytes] at hk; omega
      simp [Memory.store, e0]
    · have e1 : (a + 1#32).toNat = a.toNat + 1 := h1 1 (by decide)
      match k, hk with
      | 0, _ => simp [Memory.store, hr, e1]
      | 1, _ => simp [Memory.store, hr, e1]
    · have e1 : (a + 1#32).toNat = a.toNat + 1 := h1 1 (by decide)
      have e2 : (a + 2#32).toNat = a.toNat + 2 := h1 2 (by decide)
      have e3 : (a + 3#32).toNat = a.toNat + 3 := h1 3 (by decide)
      match k, hk with
      | 0, _ => simp [Memory.store, hr, e1, e2, e3]
      | 1, _ => simp [Memory.store, hr, e1, e2, e3]
      | 2, _ => simp [Memory.store, hr, e1, e2, e3]
      | 3, _ => simp [Memory.store, hr, e1, e2, e3]
  · rw [if_neg hc]
    have hn (k : Nat) (hk : k < w.bytes) : x ≠ (a + BitVec.ofNat 32 k).toNat := by
      rw [h1 k hk]
      omega
    have n0 (hp : 0 < w.bytes) : x ≠ a.toNat := by simpa using hn 0 hp
    cases w
    · simp only [Memory.store, hr, if_neg (n0 (by decide))]
    · have n1 : x ≠ (a + 1#32).toNat := hn 1 (by decide)
      simp only [Memory.store, hr, if_neg (n0 (by decide)), if_neg n1]
    · have n1 : x ≠ (a + 1#32).toNat := hn 1 (by decide)
      have n2 : x ≠ (a + 2#32).toNat := hn 2 (by decide)
      have n3 : x ≠ (a + 3#32).toNat := hn 3 (by decide)
      simp only [Memory.store, hr, if_neg (n0 (by decide)), if_neg n1, if_neg n2, if_neg n3]

/-! ## Loads -/

/-- The low bytes of a word make up what a load of that width gives. -/
theorem Memory.load_of_bytes (m : Memory) (a : Word) (w : Width) (v : Word) (h : a.toNat + w.bytes ≤ 2 ^ 32)
    (hb : ∀ k < w.bytes, m.read (a.toNat + k) = some (byteOfWord v k)) : m.load a w = .ok (lowBits w v) := by
  have hr (k : Nat) (hk : k < w.bytes) : m.byteAt (a + BitVec.ofNat 32 k) = .ok (byteOfWord v k) := by
    simp only [Memory.byteAt, toNat_add_byte a k (by omega), hb k hk]
  have h0 : ∀ hp : 0 < w.bytes, m.byteAt a = .ok (byteOfWord v 0) := by
    intro hp
    simpa using hr 0 hp
  cases w
  · simp only [Memory.load, h0 (by decide)]
    rfl
  · have e1 : m.byteAt (a + 1#32) = .ok (byteOfWord v 1) := hr 1 (by decide)
    simp only [Memory.load, h0 (by decide), e1]
    show Except.ok _ = Except.ok _
    congr 1
    simp only [byteOfWord, lowBits]
    ext i hi
    simp only [BitVec.getElem_setWidth, BitVec.getLsbD_append, BitVec.getLsbD_extractLsb', BitVec.getLsbD_setWidth]
    by_cases h8 : i < 8
    · simp [h8, show i < 16 by omega]
    · by_cases h16 : i < 16
      · simp [h8, h16, show i - 8 < 8 by omega, show 8 + (i - 8) = i by omega]
      · simp [h8, h16, show ¬ i - 8 < 8 by omega]
  · have e1 : m.byteAt (a + 1#32) = .ok (byteOfWord v 1) := hr 1 (by decide)
    have e2 : m.byteAt (a + 2#32) = .ok (byteOfWord v 2) := hr 2 (by decide)
    have e3 : m.byteAt (a + 3#32) = .ok (byteOfWord v 3) := hr 3 (by decide)
    simp only [Memory.load, h0 (by decide), e1, e2, e3]
    show Except.ok _ = Except.ok _
    congr 1
    exact wordOfBytes_byteOfWord v

/-- The lowest undefined byte stops a load. -/
theorem Memory.load_undefined (m : Memory) (a : Word) (w : Width) (k : Nat) (h : a.toNat + w.bytes ≤ 2 ^ 32)
    (hk : k < w.bytes) (hn : m.read (a.toNat + k) = none) (hd : ∀ j < k, m.read (a.toNat + j) ≠ none) :
    m.load a w = .error (a + BitVec.ofNat 32 k) := by
  have hu (j : Nat) (hj : j < w.bytes) (h0 : m.read (a.toNat + j) = none) :
      m.byteAt (a + BitVec.ofNat 32 j) = .error (a + BitVec.ofNat 32 j) := by
    simp only [Memory.byteAt, toNat_add_byte a j (by omega), h0]
  have hs (j : Nat) (hj : j < k) : ∃ b, m.byteAt (a + BitVec.ofNat 32 j) = .ok b := by
    obtain ⟨b, hb⟩ := Option.ne_none_iff_exists'.mp (hd j hj)
    exact ⟨b, by simp only [Memory.byteAt, toNat_add_byte a j (by omega), hb]⟩
  have hz : a + BitVec.ofNat 32 0 = a := BitVec.add_zero a
  have fault := hu k hk hn
  match k, hk with
  | 0, _ =>
    rw [hz] at fault ⊢
    cases w <;> simp only [Memory.load, fault] <;> rfl
  | 1, hk =>
    obtain ⟨b0, h0⟩ := hs 0 (by omega)
    rw [hz] at h0
    cases w
    · exact absurd hk (by decide)
    · simp only [Memory.load, h0, show m.byteAt (a + 1#32) = _ from fault]
      rfl
    · simp only [Memory.load, h0, show m.byteAt (a + 1#32) = _ from fault]
      rfl
  | 2, hk =>
    obtain ⟨b0, h0⟩ := hs 0 (by omega)
    obtain ⟨b1, h1⟩ := hs 1 (by omega)
    rw [hz] at h0
    cases w
    · exact absurd hk (by decide)
    · exact absurd hk (by decide)
    · simp only [Memory.load, h0, show m.byteAt (a + 1#32) = _ from h1, show m.byteAt (a + 2#32) = _ from fault]
      rfl
  | 3, hk =>
    obtain ⟨b0, h0⟩ := hs 0 (by omega)
    obtain ⟨b1, h1⟩ := hs 1 (by omega)
    obtain ⟨b2, h2⟩ := hs 2 (by omega)
    rw [hz] at h0
    cases w
    · exact absurd hk (by decide)
    · exact absurd hk (by decide)
    · simp only [Memory.load, h0, show m.byteAt (a + 1#32) = _ from h1, show m.byteAt (a + 2#32) = _ from h2,
        show m.byteAt (a + 3#32) = _ from fault]
      rfl
  | k + 4, hk => cases w <;> exact absurd hk (by simp only [Width.bytes]; omega)

end Sys2Proof.Machine
end

