-- ==== Sys2Proof/Laws/PerInstr.lean ====
section
/-! SUPPORT. Facts about every instruction, one lemma for each constructor of `Instr`. -/

namespace Sys2Proof

/-- Masking a concatenation masks its parts. -/
theorem and_concat {m n : Nat} (x y : BitVec m) (u v : BitVec n) :
    (x ++ u) &&& (y ++ v) = (x &&& y) ++ (u &&& v) := by
  apply BitVec.eq_of_getLsbD_eq
  intro i hi
  simp only [BitVec.getLsbD_and, BitVec.getLsbD_append]
  split <;> rfl

/-- Masking a format A-R word masks its fields. -/
theorem packR_and (n : BitVec 5) (d a b md ma mb : BitVec 3) (mo : BitVec 5) (mm : BitVec 1) (ml : BitVec 17) :
    packR n d a b &&& (mo ++ mm ++ md ++ ma ++ mb ++ ml : BitVec (5 + 1 + 3 + 3 + 3 + 17)) =
      (n &&& mo) ++ (0#1 &&& mm) ++ (d &&& md) ++ (a &&& ma) ++ (b &&& mb) ++ (0#17 &&& ml) := by
  rw [← and_concat, ← and_concat, ← and_concat, ← and_concat, ← and_concat]
  rfl

/-- Masking a format A-I or M word masks its fields. -/
theorem packI_and (n : BitVec 5) (m mm : BitVec 1) (d a md ma : BitVec 3) (mo : BitVec 5) (i mi : Imm20) :
    packI n m d a i &&& (mo ++ mm ++ md ++ ma ++ mi : BitVec (5 + 1 + 3 + 3 + 20)) =
      (n &&& mo) ++ (m &&& mm) ++ (d &&& md) ++ (a &&& ma) ++ (i &&& mi) := by
  rw [← and_concat, ← and_concat, ← and_concat, ← and_concat]
  rfl

/-- Masking a format C-addr word masks its fields. -/
theorem packC_and (n : BitVec 5) (c : Cond) (mm : BitVec 1) (mc : BitVec 4) (mg : BitVec 2) (mo : BitVec 5) (i mi : Imm20) :
    packC n c i &&& (mo ++ mm ++ mc ++ mg ++ mi : BitVec (5 + 1 + 4 + 2 + 20)) =
      (n &&& mo) ++ (0#1 &&& mm) ++ (c.bits &&& mc) ++ (0#2 &&& mg) ++ (i &&& mi) := by
  rw [← and_concat, ← and_concat, ← and_concat, ← and_concat]
  rfl

/-- Masking a format C-reg word masks its fields. -/
theorem packCReg_and (n : BitVec 5) (c : Cond) (r : Reg) (mm : BitVec 1) (mc : BitVec 4) (mg : BitVec 2) (mo : BitVec 5)
    (mr : BitVec 3) (ml : BitVec 17) :
    packCReg n c r &&& (mo ++ mm ++ mc ++ mg ++ mr ++ ml : BitVec (5 + 1 + 4 + 2 + 3 + 17)) =
      (n &&& mo) ++ (1#1 &&& mm) ++ (c.bits &&& mc) ++ (0#2 &&& mg) ++ (r.bits &&& mr) ++ (0#17 &&& ml) := by
  rw [← and_concat, ← and_concat, ← and_concat, ← and_concat, ← and_concat]
  rfl

/-! What the masks of the table leave of a word. -/

theorem and_ones (n : Nat) (x : BitVec n) : x &&& BitVec.allOnes n = x := BitVec.and_allOnes

theorem packR_fixed_FC01FFFF (n : BitVec 5) (d a b : BitVec 3) :
    packR n d a b &&& 0xFC01FFFF#32 = packR n 0#3 0#3 0#3 := by
  rw [show (0xFC01FFFF#32 : Word) = BitVec.allOnes 5 ++ BitVec.allOnes 1 ++ 0#3 ++ 0#3 ++ 0#3 ++ BitVec.allOnes 17 from rfl, packR_and]
  simp only [BitVec.and_zero, and_ones 1, and_ones 5, and_ones 17]
  rfl

theorem packI_fixed_FC000000 (n : BitVec 5) (m : BitVec 1) (d a : BitVec 3) (i : Imm20) :
    packI n m d a i &&& 0xFC000000#32 = packI n m 0#3 0#3 0#20 := by
  rw [show (0xFC000000#32 : Word) = BitVec.allOnes 5 ++ BitVec.allOnes 1 ++ 0#3 ++ 0#3 ++ 0#20 from rfl, packI_and]
  simp only [BitVec.and_zero, and_ones 1, and_ones 5]
  rfl

theorem packR_fixed_FF81FFFF (n : BitVec 5) (d a b : BitVec 3) :
    packR n d a b &&& 0xFF81FFFF#32 = packR n d 0#3 0#3 := by
  rw [show (0xFF81FFFF#32 : Word) = BitVec.allOnes 5 ++ BitVec.allOnes 1 ++ BitVec.allOnes 3 ++ 0#3 ++ 0#3 ++ BitVec.allOnes 17 from rfl, packR_and]
  simp only [BitVec.and_zero, and_ones 1, and_ones 3, and_ones 5, and_ones 17]
  rfl

theorem packI_fixed_FF800000 (n : BitVec 5) (m : BitVec 1) (d a : BitVec 3) (i : Imm20) :
    packI n m d a i &&& 0xFF800000#32 = packI n m d 0#3 0#20 := by
  rw [show (0xFF800000#32 : Word) = BitVec.allOnes 5 ++ BitVec.allOnes 1 ++ BitVec.allOnes 3 ++ 0#3 ++ 0#20 from rfl, packI_and]
  simp only [BitVec.and_zero, and_ones 1, and_ones 3, and_ones 5]
  rfl

theorem packR_fixed_FC71FFFF (n : BitVec 5) (d a b : BitVec 3) :
    packR n d a b &&& 0xFC71FFFF#32 = packR n 0#3 a 0#3 := by
  rw [show (0xFC71FFFF#32 : Word) = BitVec.allOnes 5 ++ BitVec.allOnes 1 ++ 0#3 ++ BitVec.allOnes 3 ++ 0#3 ++ BitVec.allOnes 17 from rfl, packR_and]
  simp only [BitVec.and_zero, and_ones 1, and_ones 3, and_ones 5, and_ones 17]
  rfl

theorem packI_fixed_FC700000 (n : BitVec 5) (m : BitVec 1) (d a : BitVec 3) (i : Imm20) :
    packI n m d a i &&& 0xFC700000#32 = packI n m 0#3 a 0#20 := by
  rw [show (0xFC700000#32 : Word) = BitVec.allOnes 5 ++ BitVec.allOnes 1 ++ 0#3 ++ BitVec.allOnes 3 ++ 0#20 from rfl, packI_and]
  simp only [BitVec.and_zero, and_ones 1, and_ones 3, and_ones 5]
  rfl

theorem packR_fixed_FFF1FFFF (n : BitVec 5) (d a b : BitVec 3) :
    packR n d a b &&& 0xFFF1FFFF#32 = packR n d a 0#3 := by
  rw [show (0xFFF1FFFF#32 : Word) = BitVec.allOnes 5 ++ BitVec.allOnes 1 ++ BitVec.allOnes 3 ++ BitVec.allOnes 3 ++ 0#3 ++ BitVec.allOnes 17 from rfl, packR_and]
  simp only [BitVec.and_zero, and_ones 1, and_ones 3, and_ones 5, and_ones 17]
  rfl

theorem packI_fixed_FFF00000 (n : BitVec 5) (m : BitVec 1) (d a : BitVec 3) (i : Imm20) :
    packI n m d a i &&& 0xFFF00000#32 = packI n m d a 0#20 := by
  rw [show (0xFFF00000#32 : Word) = BitVec.allOnes 5 ++ BitVec.allOnes 1 ++ BitVec.allOnes 3 ++ BitVec.allOnes 3 ++ 0#20 from rfl, packI_and]
  simp only [BitVec.and_zero, and_ones 1, and_ones 3, and_ones 5]
  rfl

theorem packR_fixed_FC7FFFFF (n : BitVec 5) (d a b : BitVec 3) :
    packR n d a b &&& 0xFC7FFFFF#32 = packR n 0#3 a b := by
  rw [show (0xFC7FFFFF#32 : Word) = BitVec.allOnes 5 ++ BitVec.allOnes 1 ++ 0#3 ++ BitVec.allOnes 3 ++ BitVec.allOnes 3 ++ BitVec.allOnes 17 from rfl, packR_and]
  simp only [BitVec.and_zero, and_ones 1, and_ones 3, and_ones 5, and_ones 17]
  rfl

theorem packI_fixed_FC7FFFFF (n : BitVec 5) (m : BitVec 1) (d a : BitVec 3) (i : Imm20) :
    packI n m d a i &&& 0xFC7FFFFF#32 = packI n m 0#3 a i := by
  rw [show (0xFC7FFFFF#32 : Word) = BitVec.allOnes 5 ++ BitVec.allOnes 1 ++ 0#3 ++ BitVec.allOnes 3 ++ BitVec.allOnes 20 from rfl, packI_and]
  simp only [BitVec.and_zero, and_ones 1, and_ones 3, and_ones 5, and_ones 20]
  rfl

theorem packC_fixed_FC300000 (n : BitVec 5) (c : Cond) (i : Imm20) :
    packC n c i &&& 0xFC300000#32 = packC n .always 0#20 := by
  rw [show (0xFC300000#32 : Word) = BitVec.allOnes 5 ++ BitVec.allOnes 1 ++ 0#4 ++ BitVec.allOnes 2 ++ 0#20 from rfl, packC_and]
  simp only [BitVec.and_zero, and_ones 1, and_ones 2, and_ones 5]
  rfl

theorem packCReg_fixed_FC31FFFF (n : BitVec 5) (c : Cond) (r : Reg) :
    packCReg n c r &&& 0xFC31FFFF#32 = packCReg n .always .r0 := by
  rw [show (0xFC31FFFF#32 : Word) = BitVec.allOnes 5 ++ BitVec.allOnes 1 ++ 0#4 ++ BitVec.allOnes 2 ++ 0#3 ++ BitVec.allOnes 17 from rfl, packCReg_and]
  simp only [BitVec.and_zero, and_ones 1, and_ones 2, and_ones 5, and_ones 17]
  rfl

theorem packC_fixed_FC3FFFFF (n : BitVec 5) (c : Cond) (i : Imm20) :
    packC n c i &&& 0xFC3FFFFF#32 = packC n .always i := by
  rw [show (0xFC3FFFFF#32 : Word) = BitVec.allOnes 5 ++ BitVec.allOnes 1 ++ 0#4 ++ BitVec.allOnes 2 ++ BitVec.allOnes 20 from rfl, packC_and]
  simp only [BitVec.and_zero, and_ones 1, and_ones 2, and_ones 5, and_ones 20]
  rfl

end Sys2Proof

namespace Sys2Proof.Laws.MatchesRow

open Sys2Proof

/-- The encoder's word, under the numbers of R88, has the fixed bits of the instruction's row of the opcode table. -/
def Statement (i : Instr) : Prop := encode defaultOpcodeMap i &&& (rowOf i).mask = (rowOf i).pattern

theorem orR (dest : Reg) (src1 : Reg) (src2 : Reg) : Statement (.orR dest src1 src2) :=
  packR_fixed_FC01FFFF (defaultOpcodeMap.code .or) _ _ _

theorem orI (dest : Reg) (src1 : Reg) (imm : Imm20) : Statement (.orI dest src1 imm) :=
  packI_fixed_FC000000 (defaultOpcodeMap.code .or) _ _ _ _

theorem andR (dest : Reg) (src1 : Reg) (src2 : Reg) : Statement (.andR dest src1 src2) :=
  packR_fixed_FC01FFFF (defaultOpcodeMap.code .and) _ _ _

theorem andI (dest : Reg) (src1 : Reg) (imm : Imm20) : Statement (.andI dest src1 imm) :=
  packI_fixed_FC000000 (defaultOpcodeMap.code .and) _ _ _ _

theorem xorR (dest : Reg) (src1 : Reg) (src2 : Reg) : Statement (.xorR dest src1 src2) :=
  packR_fixed_FC01FFFF (defaultOpcodeMap.code .xor) _ _ _

theorem xorI (dest : Reg) (src1 : Reg) (imm : Imm20) : Statement (.xorI dest src1 imm) :=
  packI_fixed_FC000000 (defaultOpcodeMap.code .xor) _ _ _ _

theorem addR (dest : Reg) (src1 : Reg) (src2 : Reg) : Statement (.addR dest src1 src2) :=
  packR_fixed_FC01FFFF (defaultOpcodeMap.code .add) _ _ _

theorem addI (dest : Reg) (src1 : Reg) (imm : Imm20) : Statement (.addI dest src1 imm) :=
  packI_fixed_FC000000 (defaultOpcodeMap.code .add) _ _ _ _

theorem adcR (dest : Reg) (src1 : Reg) (src2 : Reg) : Statement (.adcR dest src1 src2) :=
  packR_fixed_FC01FFFF (defaultOpcodeMap.code .adc) _ _ _

theorem adcI (dest : Reg) (src1 : Reg) (imm : Imm20) : Statement (.adcI dest src1 imm) :=
  packI_fixed_FC000000 (defaultOpcodeMap.code .adc) _ _ _ _

theorem subR (dest : Reg) (src1 : Reg) (src2 : Reg) : Statement (.subR dest src1 src2) :=
  packR_fixed_FC01FFFF (defaultOpcodeMap.code .sub) _ _ _

theorem subI (dest : Reg) (src1 : Reg) (imm : Imm20) : Statement (.subI dest src1 imm) :=
  packI_fixed_FC000000 (defaultOpcodeMap.code .sub) _ _ _ _

theorem rotlR (dest : Reg) (src1 : Reg) (src2 : Reg) : Statement (.rotlR dest src1 src2) :=
  packR_fixed_FC01FFFF (defaultOpcodeMap.code .rotl) _ _ _

theorem rotlI (dest : Reg) (src1 : Reg) (imm : Imm20) : Statement (.rotlI dest src1 imm) :=
  packI_fixed_FC000000 (defaultOpcodeMap.code .rotl) _ _ _ _

theorem rotrR (dest : Reg) (src1 : Reg) (src2 : Reg) : Statement (.rotrR dest src1 src2) :=
  packR_fixed_FC01FFFF (defaultOpcodeMap.code .rotr) _ _ _

theorem rotrI (dest : Reg) (src1 : Reg) (imm : Imm20) : Statement (.rotrI dest src1 imm) :=
  packI_fixed_FC000000 (defaultOpcodeMap.code .rotr) _ _ _ _

theorem shlR (dest : Reg) (src1 : Reg) (src2 : Reg) : Statement (.shlR dest src1 src2) :=
  packR_fixed_FC01FFFF (defaultOpcodeMap.code .shl) _ _ _

theorem shlI (dest : Reg) (src1 : Reg) (imm : Imm20) : Statement (.shlI dest src1 imm) :=
  packI_fixed_FC000000 (defaultOpcodeMap.code .shl) _ _ _ _

theorem shrR (dest : Reg) (src1 : Reg) (src2 : Reg) : Statement (.shrR dest src1 src2) :=
  packR_fixed_FC01FFFF (defaultOpcodeMap.code .shr) _ _ _

theorem shrI (dest : Reg) (src1 : Reg) (imm : Imm20) : Statement (.shrI dest src1 imm) :=
  packI_fixed_FC000000 (defaultOpcodeMap.code .shr) _ _ _ _

theorem ashrR (dest : Reg) (src1 : Reg) (src2 : Reg) : Statement (.ashrR dest src1 src2) :=
  packR_fixed_FC01FFFF (defaultOpcodeMap.code .ashr) _ _ _

theorem ashrI (dest : Reg) (src1 : Reg) (imm : Imm20) : Statement (.ashrI dest src1 imm) :=
  packI_fixed_FC000000 (defaultOpcodeMap.code .ashr) _ _ _ _

theorem cmpR (src1 : Reg) (src2 : Reg) : Statement (.cmpR src1 src2) :=
  packR_fixed_FF81FFFF (defaultOpcodeMap.code .cmp) _ _ _

theorem cmpI (src1 : Reg) (imm : Imm20) : Statement (.cmpI src1 imm) :=
  packI_fixed_FF800000 (defaultOpcodeMap.code .cmp) _ _ _ _

theorem moveR (dest : Reg) (src : Reg) : Statement (.moveR dest src) :=
  packR_fixed_FC71FFFF (defaultOpcodeMap.code .move) _ _ _

theorem moveI (dest : Reg) (imm : Imm20) : Statement (.moveI dest imm) :=
  packI_fixed_FC700000 (defaultOpcodeMap.code .move) _ _ _ _

theorem moveToSrR (src : Reg) : Statement (.moveToSrR src) :=
  packR_fixed_FFF1FFFF (defaultOpcodeMap.code .move) _ _ _

theorem moveToSrI (imm : Imm20) : Statement (.moveToSrI imm) :=
  packI_fixed_FFF00000 (defaultOpcodeMap.code .move) _ _ _ _

theorem moveFromSr (dest : Reg) : Statement (.moveFromSr dest) :=
  packR_fixed_FC7FFFFF (defaultOpcodeMap.code .move) _ _ _

theorem loadbBase (reg : Reg) (base : Reg) (offset : Imm20) : Statement (.loadbBase reg base offset) :=
  packI_fixed_FC000000 (defaultOpcodeMap.code .loadb) _ _ _ _

theorem loadbAbs (reg : Reg) (addr : Imm20) : Statement (.loadbAbs reg addr) :=
  packI_fixed_FC700000 (defaultOpcodeMap.code .loadb) _ _ _ _

theorem storebBase (reg : Reg) (base : Reg) (offset : Imm20) : Statement (.storebBase reg base offset) :=
  packI_fixed_FC000000 (defaultOpcodeMap.code .storeb) _ _ _ _

theorem storebAbs (reg : Reg) (addr : Imm20) : Statement (.storebAbs reg addr) :=
  packI_fixed_FC700000 (defaultOpcodeMap.code .storeb) _ _ _ _

theorem loadhBase (reg : Reg) (base : Reg) (offset : Imm20) : Statement (.loadhBase reg base offset) :=
  packI_fixed_FC000000 (defaultOpcodeMap.code .loadh) _ _ _ _

theorem loadhAbs (reg : Reg) (addr : Imm20) : Statement (.loadhAbs reg addr) :=
  packI_fixed_FC700000 (defaultOpcodeMap.code .loadh) _ _ _ _

theorem storehBase (reg : Reg) (base : Reg) (offset : Imm20) : Statement (.storehBase reg base offset) :=
  packI_fixed_FC000000 (defaultOpcodeMap.code .storeh) _ _ _ _

theorem storehAbs (reg : Reg) (addr : Imm20) : Statement (.storehAbs reg addr) :=
  packI_fixed_FC700000 (defaultOpcodeMap.code .storeh) _ _ _ _

theorem loadBase (reg : Reg) (base : Reg) (offset : Imm20) : Statement (.loadBase reg base offset) :=
  packI_fixed_FC000000 (defaultOpcodeMap.code .load) _ _ _ _

theorem loadAbs (reg : Reg) (addr : Imm20) : Statement (.loadAbs reg addr) :=
  packI_fixed_FC700000 (defaultOpcodeMap.code .load) _ _ _ _

theorem storeBase (reg : Reg) (base : Reg) (offset : Imm20) : Statement (.storeBase reg base offset) :=
  packI_fixed_FC000000 (defaultOpcodeMap.code .store) _ _ _ _

theorem storeAbs (reg : Reg) (addr : Imm20) : Statement (.storeAbs reg addr) :=
  packI_fixed_FC700000 (defaultOpcodeMap.code .store) _ _ _ _

theorem pop (reg : Reg) : Statement (.pop reg) :=
  packI_fixed_FC7FFFFF (defaultOpcodeMap.code .pop) _ _ _ _

theorem push (reg : Reg) : Statement (.push reg) :=
  packI_fixed_FC7FFFFF (defaultOpcodeMap.code .push) _ _ _ _

theorem jpAddr (cond : Cond) (addr : Imm20) : Statement (.jpAddr cond addr) :=
  packC_fixed_FC300000 (defaultOpcodeMap.code .jp) _ _

theorem jpReg (cond : Cond) (reg : Reg) : Statement (.jpReg cond reg) :=
  packCReg_fixed_FC31FFFF (defaultOpcodeMap.code .jp) _ _

theorem callAddr (cond : Cond) (addr : Imm20) : Statement (.callAddr cond addr) :=
  packC_fixed_FC300000 (defaultOpcodeMap.code .call) _ _

theorem callReg (cond : Cond) (reg : Reg) : Statement (.callReg cond reg) :=
  packCReg_fixed_FC31FFFF (defaultOpcodeMap.code .call) _ _

theorem jr (cond : Cond) (offset : Imm20) : Statement (.jr cond offset) :=
  packC_fixed_FC300000 (defaultOpcodeMap.code .jr) _ _

theorem ret (cond : Cond) : Statement (.ret cond) :=
  packC_fixed_FC3FFFFF (defaultOpcodeMap.code .ret) _ _

theorem reti (cond : Cond) : Statement (.reti cond) :=
  packC_fixed_FC3FFFFF (defaultOpcodeMap.code .ret) _ _

theorem retn (cond : Cond) : Statement (.retn cond) :=
  packC_fixed_FC3FFFFF (defaultOpcodeMap.code .ret) _ _

theorem halt (cond : Cond) : Statement (.halt cond) :=
  packC_fixed_FC3FFFFF (defaultOpcodeMap.code .halt) _ _

end Sys2Proof.Laws.MatchesRow
end

