-- ==== Sys2Proof/Laws/Progress.lean ====
section
/-! SUPPORT. When the shared operations succeed and what they then give, by what answers the access: defined plain memory,
the environment, or nothing. -/

namespace Sys2Proof.Machine

open Sys2Proof Host

/-! ## Reads and writes -/

theorem memRead_stored {s : State} {ea v : Word} {w : Width} (hp : PlainAt s ea w) (hs : StoredAt s ea w v) :
    memRead s ea w = .ok (lowBits w v, s) :=
  memRead_plain hp (Memory.load_of_bytes s.mem _ w v (align_end ea w) hs)

theorem memRead_io {s : State} {ea : Word} {w : Width} (hp : IoAt s ea w) :
    memRead s ea w = .ok (lowBits w (Config.ioAnswer s.io (align ea w) w),
      { s with io := s.io ++ [.read (align ea w) w (lowBits w (Config.ioAnswer s.io (align ea w) w))] }) := by
  simp only [memRead]
  rw [hp]

theorem memRead_unmapped {s : State} {ea : Word} {w : Width} (hp : UnmappedAt s ea w) :
    memRead s ea w = .error (.unmappedAccess (align ea w) w .read) := by
  simp only [memRead]
  rw [hp]

theorem memWrite_io {s : State} {ea v : Word} {w : Width} (hp : IoAt s ea w) :
    memWrite s ea w v = .ok { s with io := s.io ++ [.write (align ea w) w (lowBits w v)] } := by
  simp only [memWrite]
  rw [hp]

theorem memWrite_unmapped {s : State} {ea v : Word} {w : Width} (hp : UnmappedAt s ea w) :
    memWrite s ea w v = .error (.unmappedAccess (align ea w) w .write) := by
  simp only [memWrite]
  rw [hp]

/-! ## What a store to plain memory leaves -/

/-- The bytes stored stand where they were stored. -/
theorem storedAt_store (s : State) (ea v : Word) (w : Width) :
    StoredAt { s with mem := s.mem.store (align ea w) w v } ea w v := by
  intro k hk
  show Memory.read (s.mem.store _ _ _) _ = _
  rw [Memory.read_store s.mem _ w v (align_end ea w), if_pos ⟨by omega, by omega⟩, Nat.add_sub_cancel_left]

/-- Every other byte reads as before. -/
theorem sameMemoryBut_store (s : State) (ea v : Word) (w : Width) :
    SameMemoryBut s { s with mem := s.mem.store (align ea w) w v } ea w := by
  intro a ha
  show Memory.read (s.mem.store _ _ _) _ = _
  rw [Memory.read_store s.mem _ w v (align_end ea w), if_neg (by omega)]

/-! ## Loads and stores as the meanings make them -/

theorem loadOp_stored {s : State} {r : Reg} {ea v : Word} {w : Width} (hp : PlainAt s ea w) (hs : StoredAt s ea w v) :
    loadOp r ea w s = .ok (s.setReg r (extendLoad s.params.narrowLoadExt w (lowBits w v))) := by
  rw [loadOp, memRead_stored hp hs]

theorem storeOp_plain {s : State} {r : Reg} {ea : Word} {w : Width} (hp : PlainAt s ea w) :
    storeOp r ea w s = .ok { s with mem := s.mem.store (align ea w) w (s.reg r) } :=
  memWrite_plain hp

/-! ## The stack -/

theorem pushWord_plain {s : State} {v : Word} (hp : PlainAt s (s.reg .r7 - 4#32) .word) :
    pushWord s v = .ok { s.setReg .r7 (s.reg .r7 - 4#32) with
      mem := s.mem.store (align (s.reg .r7 - 4#32) .word) .word v } :=
  memWrite_plain (s := s.setReg .r7 (s.reg .r7 - 4#32)) hp

theorem pushWord_io {s : State} {v : Word} (hp : IoAt s (s.reg .r7 - 4#32) .word) :
    pushWord s v = .ok { s.setReg .r7 (s.reg .r7 - 4#32) with
      io := s.io ++ [.write (align (s.reg .r7 - 4#32) .word) .word v] } :=
  memWrite_io (s := s.setReg .r7 (s.reg .r7 - 4#32)) hp

theorem pushWord_unmapped {s : State} {v : Word} (hp : UnmappedAt s (s.reg .r7 - 4#32) .word) :
    pushWord s v = .error (.unmappedAccess (align (s.reg .r7 - 4#32) .word) .word .write) :=
  memWrite_unmapped (s := s.setReg .r7 (s.reg .r7 - 4#32)) hp

theorem popWord_stored {s : State} {v : Word} (hp : PlainAt s (s.reg .r7) .word) (hs : StoredAt s (s.reg .r7) .word v) :
    popWord s = .ok (v, s.setReg .r7 (s.reg .r7 + 4#32)) := by
  rw [popWord, memRead_stored hp hs]
  rfl

theorem popWord_unmapped {s : State} (hp : UnmappedAt s (s.reg .r7) .word) :
    popWord s = .error (.unmappedAccess (align (s.reg .r7) .word) .word .read) := by
  rw [popWord, memRead_unmapped hp]

theorem popPc_stored {s : State} {v : Word} (hp : PlainAt s (s.reg .r7) .word) (hs : StoredAt s (s.reg .r7) .word v) :
    popPc s = .ok ((s.setReg .r7 (s.reg .r7 + 4#32)).setPc v) := by
  rw [popPc, popWord_stored hp hs]

/-- An undefined byte of plain memory stops a load of it, with the lowest such address. -/
theorem memRead_undefined {s : State} {ea m : Word} {w : Width} {k : Nat} (hp : PlainAt s ea w) (hk : k < w.bytes)
    (hm : m = align ea w + BitVec.ofNat 32 k) (hn : s.mem.read ((align ea w).toNat + k) = none)
    (hd : ∀ j < k, s.mem.read ((align ea w).toNat + j) ≠ none) :
    memRead s ea w = .error (.unwrittenRead m) := by
  simp only [memRead]
  rw [hp]
  simp only [hm, Memory.load_undefined s.mem (align ea w) w k (align_end ea w) hk hn hd]

/-! ## The lines and the step -/

theorem sample_given {s : State} {l : LineSample} {ls : List LineSample} (h : s.lines.given = l :: ls) : s.sample = l := by
  unfold State.sample
  rw [h]

/-- Lines that are held keep their level at every boundary. -/
theorem sample_held {s : State} {l : LineSample} (hg : s.lines.given = []) (hs : s.lines.source = .held l) :
    s.sample = l := by
  unfold State.sample
  rw [hg, hs]
  rfl

theorem takenInterrupt_quiet {s : State} (h : Quiet s) : takenInterrupt s = none := by
  unfold takenInterrupt
  rw [if_neg (by simpa using h.1), if_neg (by simpa using h.2)]

theorem takenInterrupt_nmi {s : State} (hn : s.sample.nmi = true) (hi : s.iif = true) :
    takenInterrupt s = some .nmi := by
  unfold takenInterrupt
  rw [if_pos (by simp [hn, hi])]

theorem takenInterrupt_int0 {s : State} (hn : ¬ (s.sample.nmi = true ∧ s.iif = true)) (hs : s.sample.int0 = true)
    (hg : s.sr.gie = true) : takenInterrupt s = some .int0 := by
  unfold takenInterrupt
  rw [if_neg (by simpa using hn), if_pos (by simp [hs, hg])]

/-- A step that takes an interrupt is its entry. -/
theorem step_taken {s : State} {l : Level} (hh : s.halted = false) (ht : takenInterrupt s = some l) :
    step s = finish (enterInterrupt s.passBoundary l) := by
  unfold step
  rw [if_neg (by simp [hh]), ht]

/-- A step that takes no interrupt stops where its fetch does. -/
theorem step_fetch_fault {s : State} {f : Fault} (hh : s.halted = false) (hq : Quiet s)
    (hf : fetch s.passBoundary = .error f) : step s = .fault f := by
  simp only [step, hh, takenInterrupt_quiet hq, hf, Bool.false_eq_true, if_false]

/-- A step that takes no interrupt and fetches a word that is no instruction stops with its fault. -/
theorem step_undecoded {s t : State} {ir : Word} {e : DecodeError} (hh : s.halted = false) (hq : Quiet s)
    (hf : fetch s.passBoundary = .ok (ir, t)) (hd : decode s.params.opcodeMap ir = .error e) :
    step s = .fault (decodeFault e ir s.pc) := by
  simp only [step, hh, takenInterrupt_quiet hq, hf, hd, Bool.false_eq_true, if_false]

/-- A step that takes no interrupt runs the instruction it fetches. -/
theorem step_runs {s t : State} {ir : Word} {i : Instr} (hh : s.halted = false) (hq : Quiet s)
    (hf : fetch s.passBoundary = .ok (ir, t)) (hd : decode s.params.opcodeMap ir = .ok i) : step s = exec i t := by
  simp only [step, hh, takenInterrupt_quiet hq, hf, hd, Bool.false_eq_true, if_false]

/-- A fetch that is not misaligned, or masks, is a read at the pc. -/
theorem fetch_eq {s : State} (h : s.pc &&& 3#32 = 0#32 ∨ s.params.fetchMode = .mask) :
    fetch s =
      match memRead s s.pc .word with
      | .error f => .error f
      | .ok (ir, t) => .ok (ir, t.setPc (s.pc + 4#32)) := by
  have hn : ¬ (s.params.fetchMode = .fault ∧ s.pc &&& 3#32 ≠ 0#32) := by
    rintro ⟨hf, hp⟩
    rcases h with h | h
    · exact hp h
    · rw [h] at hf
      cases hf
  exact if_neg hn

/-! ## Conditions -/

theorem whenHolds_taken {i : Instr} {s : State} {taken : Except Fault State} (h : Holds i.cond s) :
    whenHolds i s taken = finish taken := by
  unfold whenHolds
  rw [h]

theorem whenHolds_skipped {i : Instr} {s : State} {taken : Except Fault State} (h : condHolds i.cond s.sr = some false) :
    whenHolds i s taken = .next s := by
  unfold whenHolds
  rw [h]

end Sys2Proof.Machine
end

