-- ==== Sys2Proof/Tests/Slice0.lean ====
section
/-! SUPPORT. Tests with expected values from the spec (T<n> is a vector of 95_test_vectors.md), and for every statement
with hypotheses a state that meets them. -/

namespace Sys2Proof.Tests

open Sys2Proof Sys2Proof.Machine Sys2Proof.Claims Host

section

set_option Elab.async false

/-! ## Helpers -/

/-- The state an outcome goes on to. -/
def after (o : Outcome State Fault Refusal) : Option State :=
  match o with
  | .next t => some t
  | .fault _ => none
  | .refused _ => none

/-- The fault an outcome is. -/
def faultOf (o : Outcome State Fault Refusal) : Option Fault :=
  match o with
  | .next _ => none
  | .fault f => some f
  | .refused _ => none

theorem next_of_after {o : Outcome State Fault Refusal} (h : (after o).isSome = true) : ∃ t, o = .next t := by
  cases o with
  | next t => exact ⟨t, rfl⟩
  | fault f => exact absurd h Bool.false_ne_true
  | refused r => exact absurd h Bool.false_ne_true

/-- Lines that drive some samples and then stay at 0. -/
def samples (ls : List LineSample) : Lines := { given := ls, source := .held ⟨false, false⟩, passed := 0 }

/-- The reset state with both lines at 0, and with some registers, SR, the pc and some words of memory given. -/
def given (regs : List (Reg × Word)) (sr pc : Word) (words : List (Word × Word)) : State :=
  let s := regs.foldl (fun s p => s.setReg p.1 p.2) State.reset
  { s with
    sr := Status.ofWord sr, pc := pc, mem := words.foldl (fun m p => m.store p.1 .word p.2) [], lines := samples [] }

/-- The flags in the order C V Z N. -/
def flags (s : State) : Bool × Bool × Bool × Bool := (s.sr.c, s.sr.v, s.sr.z, s.sr.n)

/-- The word in plain memory at an address. -/
def wordAt (s : State) (a : Word) : Option Word := (s.mem.load a .word).toOption

/-! ## Well-formed terms -/

theorem test_wellFormed_refuses_reserved_condition :
    ¬ (Instr.jpAddr .reserved 0#20).WellFormed ∧ ¬ (Instr.jpReg .reserved .r0).WellFormed ∧
    ¬ (Instr.callAddr .reserved 0#20).WellFormed ∧ ¬ (Instr.callReg .reserved .r0).WellFormed ∧
    ¬ (Instr.jr .reserved 0#20).WellFormed ∧ ¬ (Instr.ret .reserved).WellFormed ∧
    ¬ (Instr.reti .reserved).WellFormed ∧ ¬ (Instr.retn .reserved).WellFormed ∧ ¬ (Instr.halt .reserved).WellFormed := by decide

theorem test_wellFormed_admits : (Instr.jpAddr .nv 0#20).WellFormed ∧ (Instr.addR .r7 .r7 .r7).WellFormed := by decide

/-! ## Decoding: a word for every constructor, from 30_encoding.md R97 and T20 to T31 -/

theorem test_decode_arithmetic :
    decode defaultOpcodeMap 0x21020000#32 = .ok (.addR .r2 .r0 .r1) ∧
    decode defaultOpcodeMap 0x25000001#32 = .ok (.addI .r2 .r0 1#20) ∧
    decode defaultOpcodeMap 0x29020000#32 = .ok (.adcR .r2 .r0 .r1) ∧
    decode defaultOpcodeMap 0x2D000000#32 = .ok (.adcI .r2 .r0 0#20) ∧
    decode defaultOpcodeMap 0x31020000#32 = .ok (.subR .r2 .r0 .r1) ∧
    decode defaultOpcodeMap 0x35000001#32 = .ok (.subI .r2 .r0 1#20) ∧
    decode defaultOpcodeMap 0x68020000#32 = .ok (.cmpR .r0 .r1) ∧
    decode defaultOpcodeMap 0x6C0FFFFF#32 = .ok (.cmpI .r0 0xFFFFF#20) ∧
    decode defaultOpcodeMap 0x2A960000#32 = .ok (.adcR .r5 .r1 .r3) := by decide

theorem test_decode_logic :
    decode defaultOpcodeMap 0x11020000#32 = .ok (.andR .r2 .r0 .r1) ∧
    decode defaultOpcodeMap 0x150FFFFF#32 = .ok (.andI .r2 .r0 0xFFFFF#20) ∧
    decode defaultOpcodeMap 0x09020000#32 = .ok (.orR .r2 .r0 .r1) ∧
    decode defaultOpcodeMap 0x0D080000#32 = .ok (.orI .r2 .r0 0x80000#20) ∧
    decode defaultOpcodeMap 0x19020000#32 = .ok (.xorR .r2 .r0 .r1) ∧
    decode defaultOpcodeMap 0x1C900001#32 = .ok (.xorI .r1 .r1 1#20) := by decide

theorem test_decode_shift :
    decode defaultOpcodeMap 0x51020000#32 = .ok (.shlR .r2 .r0 .r1) ∧
    decode defaultOpcodeMap 0x54800003#32 = .ok (.shlI .r1 .r0 3#20) ∧
    decode defaultOpcodeMap 0x59020000#32 = .ok (.shrR .r2 .r0 .r1) ∧
    decode defaultOpcodeMap 0x5D00001C#32 = .ok (.shrI .r2 .r0 28#20) ∧
    decode defaultOpcodeMap 0x61020000#32 = .ok (.ashrR .r2 .r0 .r1) ∧
    decode defaultOpcodeMap 0x65800002#32 = .ok (.ashrI .r3 .r0 2#20) ∧
    decode defaultOpcodeMap 0x41020000#32 = .ok (.rotlR .r2 .r0 .r1) ∧
    decode defaultOpcodeMap 0x44E00010#32 = .ok (.rotlI .r1 .r6 16#20) ∧
    decode defaultOpcodeMap 0x49020000#32 = .ok (.rotrR .r2 .r0 .r1) ∧
    decode defaultOpcodeMap 0x4D000008#32 = .ok (.rotrI .r2 .r0 8#20) := by decide

theorem test_decode_move :
    decode defaultOpcodeMap 0x01020000#32 = .ok (.moveR .r2 .r1) ∧
    decode defaultOpcodeMap 0x00000000#32 = .ok (.moveR .r0 .r0) ∧
    decode defaultOpcodeMap 0x07840000#32 = .ok (.moveI .r7 0x40000#20) ∧
    decode defaultOpcodeMap 0x00160000#32 = .ok (.moveToSrR .r3) ∧
    decode defaultOpcodeMap 0x04100010#32 = .ok (.moveToSrI 0x10#20) ∧
    decode defaultOpcodeMap 0x02A00000#32 = .ok (.moveFromSr .r5) := by decide

theorem test_decode_memory :
    decode defaultOpcodeMap 0xB0100004#32 = .ok (.loadBase .r0 .r1 4#20) ∧
    decode defaultOpcodeMap 0xB48F0004#32 = .ok (.loadAbs .r1 0xF0004#20) ∧
    decode defaultOpcodeMap 0xB97FFFF8#32 = .ok (.storeBase .r2 .r7 0xFFFF8#20) ∧
    decode defaultOpcodeMap 0xBC802000#32 = .ok (.storeAbs .r1 0x2000#20) ∧
    decode defaultOpcodeMap 0xA1C00002#32 = .ok (.loadhBase .r3 .r4 2#20) ∧
    decode defaultOpcodeMap 0xA5801000#32 = .ok (.loadhAbs .r3 0x1000#20) ∧
    decode defaultOpcodeMap 0xA9C00002#32 = .ok (.storehBase .r3 .r4 2#20) ∧
    decode defaultOpcodeMap 0xAD801000#32 = .ok (.storehAbs .r3 0x1000#20) ∧
    decode defaultOpcodeMap 0x91C00001#32 = .ok (.loadbBase .r3 .r4 1#20) ∧
    decode defaultOpcodeMap 0x95801000#32 = .ok (.loadbAbs .r3 0x1000#20) ∧
    decode defaultOpcodeMap 0x99C00003#32 = .ok (.storebBase .r3 .r4 3#20) ∧
    decode defaultOpcodeMap 0x9D801000#32 = .ok (.storebAbs .r3 0x1000#20) := by decide

theorem test_decode_stack :
    decode defaultOpcodeMap 0x8B000000#32 = .ok (.push .r6) ∧
    decode defaultOpcodeMap 0x82800000#32 = .ok (.pop .r5) := by decide

theorem test_decode_control :
    decode defaultOpcodeMap 0xC0001000#32 = .ok (.jpAddr .always 0x1000#20) ∧
    decode defaultOpcodeMap 0xC5860000#32 = .ok (.jpReg .ge .r3) ∧
    decode defaultOpcodeMap 0xC8400100#32 = .ok (.callAddr .eq 0x100#20) ∧
    decode defaultOpcodeMap 0xCC020000#32 = .ok (.callReg .always .r1) ∧
    decode defaultOpcodeMap 0xD08FFFF4#32 = .ok (.jr .ne 0xFFFF4#20) ∧
    decode defaultOpcodeMap 0xD8800000#32 = .ok (.ret .ne) := by decide

theorem test_decode_system :
    decode defaultOpcodeMap 0xD8000001#32 = .ok (.reti .always) ∧
    decode defaultOpcodeMap 0xD8000003#32 = .ok (.retn .always) ∧
    decode defaultOpcodeMap 0xF8000000#32 = .ok (.halt .always) ∧
    decode defaultOpcodeMap 0xF8800000#32 = .ok (.halt .ne) := by decide

/-- The fifteen codes of 30_encoding.md R92, in bits 25:22. -/
theorem test_decode_conditions :
    decode defaultOpcodeMap 0xC0000020#32 = .ok (.jpAddr .always 0x20#20) ∧
    decode defaultOpcodeMap 0xC0400020#32 = .ok (.jpAddr .eq 0x20#20) ∧
    decode defaultOpcodeMap 0xC0800020#32 = .ok (.jpAddr .ne 0x20#20) ∧
    decode defaultOpcodeMap 0xC0C00020#32 = .ok (.jpAddr .lt 0x20#20) ∧
    decode defaultOpcodeMap 0xC1000020#32 = .ok (.jpAddr .le 0x20#20) ∧
    decode defaultOpcodeMap 0xC1400020#32 = .ok (.jpAddr .gt 0x20#20) ∧
    decode defaultOpcodeMap 0xC1800020#32 = .ok (.jpAddr .ge 0x20#20) ∧
    decode defaultOpcodeMap 0xC1C00020#32 = .ok (.jpAddr .ult 0x20#20) ∧
    decode defaultOpcodeMap 0xC2000020#32 = .ok (.jpAddr .ule 0x20#20) ∧
    decode defaultOpcodeMap 0xC2400020#32 = .ok (.jpAddr .ugt 0x20#20) ∧
    decode defaultOpcodeMap 0xC2800020#32 = .ok (.jpAddr .uge 0x20#20) ∧
    decode defaultOpcodeMap 0xC2C00020#32 = .ok (.jpAddr .n 0x20#20) ∧
    decode defaultOpcodeMap 0xC3000020#32 = .ok (.jpAddr .nn 0x20#20) ∧
    decode defaultOpcodeMap 0xC3400020#32 = .ok (.jpAddr .v 0x20#20) ∧
    decode defaultOpcodeMap 0xC3800020#32 = .ok (.jpAddr .nv 0x20#20) := by decide

/-- T33. -/
theorem test_decode_illegal :
    decode defaultOpcodeMap 0x38000000#32 = .error .illegalInstruction ∧
    decode defaultOpcodeMap 0x70000000#32 = .error .illegalInstruction ∧
    decode defaultOpcodeMap 0x78000000#32 = .error .illegalInstruction ∧
    decode defaultOpcodeMap 0xE0000000#32 = .error .illegalInstruction ∧
    decode defaultOpcodeMap 0xE8000000#32 = .error .illegalInstruction ∧
    decode defaultOpcodeMap 0xF0000000#32 = .error .illegalInstruction := by decide

theorem test_decode_reserved :
    decode defaultOpcodeMap 0x21020001#32 = .error .reservedEncoding ∧
    decode defaultOpcodeMap 0x68820000#32 = .error .reservedEncoding ∧
    decode defaultOpcodeMap 0x00300000#32 = .error .reservedEncoding ∧
    decode defaultOpcodeMap 0x00400000#32 = .error .reservedEncoding ∧
    decode defaultOpcodeMap 0x00900000#32 = .error .reservedEncoding ∧
    decode defaultOpcodeMap 0x04200000#32 = .error .reservedEncoding ∧
    decode defaultOpcodeMap 0xB4100000#32 = .error .reservedEncoding ∧
    decode defaultOpcodeMap 0x8C000000#32 = .error .reservedEncoding ∧
    decode defaultOpcodeMap 0x88000004#32 = .error .reservedEncoding ∧
    decode defaultOpcodeMap 0xC0100000#32 = .error .reservedEncoding ∧
    decode defaultOpcodeMap 0xC3C00000#32 = .error .reservedEncoding ∧
    decode defaultOpcodeMap 0xC4000001#32 = .error .reservedEncoding ∧
    decode defaultOpcodeMap 0xD4000000#32 = .error .reservedEncoding ∧
    decode defaultOpcodeMap 0xD8000002#32 = .error .reservedEncoding ∧
    decode defaultOpcodeMap 0xD8000004#32 = .error .reservedEncoding ∧
    decode defaultOpcodeMap 0xF8000001#32 = .error .reservedEncoding ∧
    decode defaultOpcodeMap 0xFFFFFFFF#32 = .error .reservedEncoding := by decide

/-- 30_encoding.md R80: the lowest byte first. -/
theorem test_decode_bytes_little_endian :
    decodeBytes defaultOpcodeMap 0x04#8 0x00#8 0x10#8 0xB0#8 = .ok (.loadBase .r0 .r1 4#20) := by decide

/-- `OPCODE_MAP` with the numbers of ADD and SUB exchanged. -/
def exchanged : Config.OpcodeMap := { defaultOpcodeMap with add := 0b00110#5, sub := 0b00100#5 }

/-- 30_encoding.md R88: the map is a configuration value that the decoder, the encoder and the step take. -/
theorem test_opcode_map_is_a_parameter :
    exchanged.Distinct ∧ decode exchanged 0x31020000#32 = .ok (.addR .r2 .r0 .r1) ∧
    encode exchanged (.subI .r2 .r0 1#20) = 0x25000001#32 ∧
    (after (step (State.withFetchWord { given [(.r0, 5#32)] 0#32 0#32 [] with
      params := { defaultParams with opcodeMap := exchanged } } 32 0x25000001))).map (·.reg .r2) = some 4#32 := by decide

theorem test_encode_words :
    encode defaultOpcodeMap (.storeBase .r2 .r7 0xFFFF8#20) = 0xB97FFFF8#32 ∧ encode defaultOpcodeMap (.jpReg .ge .r3) = 0xC5860000#32 ∧
    encode defaultOpcodeMap (.moveToSrR .r3) = 0x00160000#32 ∧ encode defaultOpcodeMap (.cmpI .r0 0xFFFFF#20) = 0x6C0FFFFF#32 ∧ encode defaultOpcodeMap (.retn .always) = 0xD8000003#32 := by decide

/-! ## One step of each instruction -/

/-- T20. -/
theorem test_add_register :
    (after (exec (.addR .r2 .r0 .r1) (given [(.r0, 0x80000000#32), (.r1, 0x80000000#32)] 0#32 0x24#32 []))).map (fun t => (t.reg .r2, flags t))
      = some (0x00000000#32, (true, true, true, false)) := by decide

/-- T20, immediate -1. -/
theorem test_add_immediate :
    (after (exec (.addI .r2 .r0 0xFFFFF#20) (given [(.r0, 0x00000005#32)] 0#32 0x24#32 []))).map (fun t => (t.reg .r2, flags t))
      = some (0x00000004#32, (true, false, false, false)) := by decide

/-- T21, C before. -/
theorem test_adc_register :
    (after (exec (.adcR .r2 .r0 .r1) (given [(.r0, 0xFFFFFFFF#32), (.r1, 0xFFFFFFFF#32)] 1#32 0x24#32 []))).map (fun t => (t.reg .r2, flags t))
      = some (0xFFFFFFFF#32, (true, false, false, true)) := by decide

/-- T21, C before. -/
theorem test_adc_immediate :
    (after (exec (.adcI .r2 .r0 0#20) (given [(.r0, 0x7FFFFFFF#32)] 1#32 0x24#32 []))).map (fun t => (t.reg .r2, flags t))
      = some (0x80000000#32, (false, true, false, true)) := by decide

/-- T22. -/
theorem test_sub_register :
    (after (exec (.subR .r2 .r0 .r1) (given [(.r0, 0x00000000#32), (.r1, 0x80000000#32)] 0#32 0x24#32 []))).map (fun t => (t.reg .r2, flags t))
      = some (0x80000000#32, (true, true, false, true)) := by decide

/-- T22. -/
theorem test_sub_immediate :
    (after (exec (.subI .r2 .r0 1#20) (given [(.r0, 0x80000000#32)] 0#32 0x24#32 []))).map (fun t => (t.reg .r2, flags t))
      = some (0x7FFFFFFF#32, (false, true, false, false)) := by decide

/-- T24, C and V set before. -/
theorem test_and_register :
    (after (exec (.andR .r2 .r0 .r1) (given [(.r0, 0xF0F0F0F0#32), (.r1, 0x0FF00FF0#32)] 0x3#32 0x24#32 []))).map (fun t => (t.reg .r2, flags t))
      = some (0x00F000F0#32, (false, false, false, false)) := by decide

/-- T24. -/
theorem test_and_immediate :
    (after (exec (.andI .r2 .r0 0x7FFFF#20) (given [(.r0, 0x12345678#32)] 0#32 0x24#32 []))).map (fun t => (t.reg .r2, flags t))
      = some (0x00045678#32, (false, false, false, false)) := by decide

/-- T24. -/
theorem test_or_register :
    (after (exec (.orR .r2 .r0 .r1) (given [(.r0, 0xAAAAAAAA#32), (.r1, 0x55555555#32)] 0#32 0x24#32 []))).map (fun t => (t.reg .r2, flags t))
      = some (0xFFFFFFFF#32, (false, false, false, true)) := by decide

/-- T24. -/
theorem test_or_immediate :
    (after (exec (.orI .r2 .r0 0x80000#20) (given [(.r0, 0x00000001#32)] 0#32 0x24#32 []))).map (fun t => (t.reg .r2, flags t))
      = some (0xFFF80001#32, (false, false, false, true)) := by decide

/-- T24. -/
theorem test_xor_register :
    (after (exec (.xorR .r2 .r0 .r1) (given [(.r0, 0x12345678#32), (.r1, 0x12345678#32)] 0#32 0x24#32 []))).map (fun t => (t.reg .r2, flags t))
      = some (0x00000000#32, (false, false, true, false)) := by decide

/-- T24. -/
theorem test_xor_immediate :
    (after (exec (.xorI .r2 .r0 0xFFFFF#20) (given [(.r0, 0x12345678#32)] 0#32 0x24#32 []))).map (fun t => (t.reg .r2, flags t))
      = some (0xEDCBA987#32, (false, false, false, true)) := by decide

/-- T25. -/
theorem test_shl_register :
    (after (exec (.shlR .r2 .r0 .r1) (given [(.r0, 0x80000001#32), (.r1, 0x00000100#32)] 0#32 0x24#32 []))).map (fun t => (t.reg .r2, t.sr.c, t.sr.z, t.sr.n))
      = some (0x00000000#32, false, true, false) := by decide

/-- T25. -/
theorem test_shl_immediate :
    (after (exec (.shlI .r2 .r0 32#20) (given [(.r0, 0x80000001#32)] 0#32 0x24#32 []))).map (fun t => (t.reg .r2, t.sr.c, t.sr.z, t.sr.n))
      = some (0x00000000#32, true, true, false) := by decide

/-- T25. -/
theorem test_shr_register :
    (after (exec (.shrR .r2 .r0 .r1) (given [(.r0, 0x80000001#32), (.r1, 0x00000021#32)] 0#32 0x24#32 []))).map (fun t => (t.reg .r2, t.sr.c, t.sr.z, t.sr.n))
      = some (0x00000000#32, false, true, false) := by decide

/-- T25. -/
theorem test_shr_immediate :
    (after (exec (.shrI .r2 .r0 1#20) (given [(.r0, 0x80000001#32)] 0#32 0x24#32 []))).map (fun t => (t.reg .r2, t.sr.c, t.sr.z, t.sr.n))
      = some (0x40000000#32, true, false, false) := by decide

/-- T25. -/
theorem test_ashr_register :
    (after (exec (.ashrR .r2 .r0 .r1) (given [(.r0, 0x80000001#32), (.r1, 0x00000020#32)] 0#32 0x24#32 []))).map (fun t => (t.reg .r2, t.sr.c, t.sr.z, t.sr.n))
      = some (0xFFFFFFFF#32, true, false, true) := by decide

/-- T25. -/
theorem test_ashr_immediate :
    (after (exec (.ashrI .r2 .r0 2#20) (given [(.r0, 0x40000002#32)] 0#32 0x24#32 []))).map (fun t => (t.reg .r2, t.sr.c, t.sr.z, t.sr.n))
      = some (0x10000000#32, true, false, false) := by decide

/-- T26. -/
theorem test_rotl_register :
    (after (exec (.rotlR .r2 .r0 .r1) (given [(.r0, 0x80000001#32), (.r1, 0x00000024#32)] 0#32 0x24#32 []))).map (·.reg .r2) = some 0x00000018#32 := by decide

/-- T26. -/
theorem test_rotl_immediate :
    (after (exec (.rotlI .r2 .r0 0xFFFFF#20) (given [(.r0, 0x12345678#32)] 0#32 0x24#32 []))).map (·.reg .r2) = some 0x091A2B3C#32 := by decide

/-- T26. -/
theorem test_rotr_register :
    (after (exec (.rotrR .r2 .r0 .r1) (given [(.r0, 0x80000001#32), (.r1, 0x00000024#32)] 0#32 0x24#32 []))).map (·.reg .r2) = some 0x18000000#32 := by decide

/-- T26. -/
theorem test_rotr_immediate :
    (after (exec (.rotrI .r2 .r0 8#20) (given [(.r0, 0x12345678#32)] 0#32 0x24#32 []))).map (·.reg .r2) = some 0x78123456#32 := by decide

/-- T25: with `SHIFT_AMOUNT_MODE` at `mod32` the amount 33 acts as 1. -/
theorem test_shift_mod32 :
    (after (exec (.shlI .r2 .r0 33#20)
      ({ given [(.r0, 0x80000001#32)] 0#32 0x24#32 [] with
        params := { defaultParams with shiftMode := .mod32 } } : State))).map (·.reg .r2) = some 2#32 := by decide

/-- T23. -/
theorem test_cmp_register :
    (after (exec (.cmpR .r0 .r1) (given [(.r0, 0x80000000#32), (.r1, 0x7FFFFFFF#32)] 0#32 0x24#32 []))).map (fun t => (t.reg .r0, flags t))
      = some (0x80000000#32, (false, true, false, false)) := by decide

/-- T23. -/
theorem test_cmp_immediate :
    (after (exec (.cmpI .r0 0xFFFFF#20) (given [(.r0, 0x00000003#32)] 0#32 0x24#32 []))).map (fun t => (t.reg .r0, flags t))
      = some (0x00000003#32, (true, false, false, false)) := by decide

/-- T27. -/
theorem test_move_register :
    (after (exec (.moveR .r2 .r1) (given [(.r1, 0xDEADBEEF#32)] 0xF#32 0x24#32 []))).map (fun t => (t.reg .r2, t.sr.toWord))
      = some (0xDEADBEEF#32, 0xF#32) := by decide

/-- T27. -/
theorem test_move_immediate :
    (after (exec (.moveI .r3 0xFFFFF#20) State.reset)).map (·.reg .r3) = some 0xFFFFFFFF#32 := by decide

/-- T27. -/
theorem test_move_to_sr_register :
    (after (exec (.moveToSrR .r3) (given [(.r3, 0xFFFFFFE5#32)] 0#32 0x24#32 []))).map (·.sr.toWord) = some 5#32 := by decide

/-- T27. -/
theorem test_move_to_sr_immediate :
    (after (exec (.moveToSrI 0x10#20) (given [] 0xF#32 0x24#32 []))).map (·.sr.toWord) = some 0x10#32 := by decide

/-- T27. -/
theorem test_move_from_sr :
    (after (exec (.moveFromSr .r5) (given [] 0x19#32 0x24#32 []))).map (fun t => (t.reg .r5, t.sr.toWord)) = some (0x19#32, 0x19#32) := by decide

/-- T28. -/
theorem test_load_base :
    (after (exec (.loadBase .r3 .r4 3#20) (given [(.r4, 0x1000#32)] 0#32 0x24#32 [(0x1000#32, 0x80C3F1A5#32)]))).map (·.reg .r3) = some 0x80C3F1A5#32 := by decide

/-- T28. -/
theorem test_load_absolute :
    (after (exec (.loadAbs .r3 0x1000#20) (given [(.r4, 0x1000#32)] 0#32 0x24#32 [(0x1000#32, 0x80C3F1A5#32)]))).map (·.reg .r3) = some 0x80C3F1A5#32 := by decide

/-- T28. -/
theorem test_loadh_base :
    (after (exec (.loadhBase .r3 .r4 3#20) (given [(.r4, 0x1000#32)] 0#32 0x24#32 [(0x1000#32, 0x80C3F1A5#32)]))).map (·.reg .r3) = some 0x000080C3#32 := by decide

/-- T28. -/
theorem test_loadh_absolute :
    (after (exec (.loadhAbs .r3 0x1001#20) (given [(.r4, 0x1000#32)] 0#32 0x24#32 [(0x1000#32, 0x80C3F1A5#32)]))).map (·.reg .r3) = some 0x0000F1A5#32 := by decide

/-- T28. -/
theorem test_loadb_base :
    (after (exec (.loadbBase .r3 .r4 1#20) (given [(.r4, 0x1000#32)] 0#32 0x24#32 [(0x1000#32, 0x80C3F1A5#32)]))).map (·.reg .r3) = some 0x000000F1#32 := by decide

/-- T28. -/
theorem test_loadb_absolute :
    (after (exec (.loadbAbs .r3 0x1003#20) (given [(.r4, 0x1000#32)] 0#32 0x24#32 [(0x1000#32, 0x80C3F1A5#32)]))).map (·.reg .r3) = some 0x00000080#32 := by decide

/-- 42_memory_ops.md R165, `sign`. -/
theorem test_loadh_sign :
    (after (exec (.loadhBase .r3 .r4 2#20)
      ({ given [(.r4, 0x1000#32)] 0#32 0x24#32 [(0x1000#32, 0x80C3F1A5#32)] with
        params := { defaultParams with narrowLoadExt := .sign } } : State))).map (·.reg .r3) = some 0xFFFF80C3#32 := by decide

/-- 42_memory_ops.md R161. -/
theorem test_load_wraps :
    (after (exec (.loadBase .r0 .r1 4#20) (given [(.r1, 0xFFFFFFFC#32)] 0#32 0x24#32 [(0#32, 0x11223344#32)]))).map (·.reg .r0)
      = some 0x11223344#32 := by decide

/-- T28. -/
theorem test_store_base :
    (after (exec (.storeBase .r3 .r4 2#20) (given [(.r3, 0x11223344#32), (.r4, 0x1000#32)] 0#32 0x24#32 [(0x1000#32, 0xAAAAAAAA#32)]))).bind (wordAt · 0x1000#32) = some 0x11223344#32 := by decide

/-- T28. -/
theorem test_store_absolute :
    (after (exec (.storeAbs .r3 0x1000#20) (given [(.r3, 0x11223344#32), (.r4, 0x1000#32)] 0#32 0x24#32 [(0x1000#32, 0xAAAAAAAA#32)]))).bind (wordAt · 0x1000#32) = some 0x11223344#32 := by decide

/-- T28. -/
theorem test_storeh_base :
    (after (exec (.storehBase .r3 .r4 3#20) (given [(.r3, 0x11223344#32), (.r4, 0x1000#32)] 0#32 0x24#32 [(0x1000#32, 0xAAAAAAAA#32)]))).bind (wordAt · 0x1000#32) = some 0x3344AAAA#32 := by decide

/-- T28. -/
theorem test_storeh_absolute :
    (after (exec (.storehAbs .r3 0x1000#20) (given [(.r3, 0x11223344#32), (.r4, 0x1000#32)] 0#32 0x24#32 [(0x1000#32, 0xAAAAAAAA#32)]))).bind (wordAt · 0x1000#32) = some 0xAAAA3344#32 := by decide

/-- T28. -/
theorem test_storeb_base :
    (after (exec (.storebBase .r3 .r4 3#20) (given [(.r3, 0x11223344#32), (.r4, 0x1000#32)] 0#32 0x24#32 [(0x1000#32, 0xAAAAAAAA#32)]))).bind (wordAt · 0x1000#32) = some 0x44AAAAAA#32 := by decide

/-- T28. -/
theorem test_storeb_absolute :
    (after (exec (.storebAbs .r3 0x1001#20) (given [(.r3, 0x11223344#32), (.r4, 0x1000#32)] 0#32 0x24#32 [(0x1000#32, 0xAAAAAAAA#32)]))).bind (wordAt · 0x1000#32) = some 0xAAAA44AA#32 := by decide

/-- T11. -/
theorem test_store_device :
    (after (exec (.storeAbs .r0 0xF0000#20) (given [(.r0, 0xFF#32)] 0#32 0x24#32 []))).map (fun t => (t.io, t.mem))
      = some ([.write 0xFFFF0000#32 .word 0xFF#32], []) := by decide

/-- T29. -/
theorem test_push :
    (after (exec (.push .r0) (given [(.r0, 0xCAFEBABE#32), (.r7, 0x40000#32)] 0#32 0x24#32 []))).map (fun t => (t.reg .r7, t.mem))
      = some (0x3FFFC#32, [(0x3FFFC, 0xBE#8), (0x3FFFD, 0xBA#8), (0x3FFFE, 0xFE#8), (0x3FFFF, 0xCA#8)]) := by decide

/-- T29. -/
theorem test_push_misaligned :
    (after (exec (.push .r0) (given [(.r0, 1#32), (.r7, 0x40002#32)] 0#32 0x24#32 []))).map (fun t => (t.reg .r7, wordAt t 0x3FFFC#32))
      = some (0x3FFFE#32, some 1#32) := by decide

/-- T29. -/
theorem test_pop :
    (after (exec (.pop .r1) (given [(.r7, 0x3FFFC#32)] 0#32 0x24#32 [(0x3FFFC#32, 0xCAFEBABE#32)]))).map (fun t => (t.reg .r1, t.reg .r7))
      = some (0xCAFEBABE#32, 0x40000#32) := by decide

/-- T30. -/
theorem test_jp_address :
    (after (exec (.jpAddr .eq 0x20#20) (given [] 4#32 0x44#32 []))).map (·.pc) = some 0x20#32 := by decide

/-- T30. -/
theorem test_jp_not_taken :
    (after (exec (.jpAddr .eq 0x20#20) (given [] 0#32 0x44#32 []))).map (·.pc) = some 0x44#32 := by decide

/-- T30. -/
theorem test_jp_register :
    (after (exec (.jpReg .ge .r3) (given [(.r3, 0x12345678#32)] 0xA#32 0x44#32 []))).map (·.pc) = some 0x12345678#32 := by decide

/-- T30. -/
theorem test_jr :
    (after (exec (.jr .always 0xFFFFC#20) (given [] 0#32 0x104#32 []))).map (·.pc) = some 0x100#32 := by decide

/-- T30. -/
theorem test_call_address :
    (after (exec (.callAddr .always 0x100#20) (given [(.r1, 0x2000#32), (.r7, 0x40000#32)] 0#32 0x24#32 []))).map (fun t => (t.pc, t.reg .r7, wordAt t 0x3FFFC#32))
      = some (0x100#32, 0x3FFFC#32, some 0x24#32) := by decide

/-- T30. -/
theorem test_call_register :
    (after (exec (.callReg .always .r1) (given [(.r1, 0x2000#32), (.r7, 0x40000#32)] 0#32 0x24#32 []))).map (fun t => (t.pc, t.reg .r7, wordAt t 0x3FFFC#32))
      = some (0x2000#32, 0x3FFFC#32, some 0x24#32) := by decide

/-- 43_control.md R185. -/
theorem test_call_r7 :
    (after (exec (.callReg .always .r7) (given [(.r7, 0x40000#32)] 0#32 0x24#32 []))).map (·.pc) = some 0x40000#32 := by decide

/-- T30. -/
theorem test_ret :
    (after (exec (.ret .always) (given [(.r7, 0x3FFFC#32)] 0#32 0x24#32 [(0x3FFFC#32, 0x124#32)]))).map (fun t => (t.pc, t.reg .r7, t.sr.gie)) = some (0x124#32, 0x40000#32, false) := by decide

/-- T31. -/
theorem test_reti :
    (after (exec (.reti .always) (given [(.r7, 0x3FFFC#32)] 0#32 0x24#32 [(0x3FFFC#32, 0x124#32)]))).map (fun t => (t.pc, t.reg .r7, t.sr.gie)) = some (0x124#32, 0x40000#32, true) := by decide

/-- T31. -/
theorem test_retn :
    (after (exec (.retn .always)
      ({ given [(.r7, 0x3FFFC#32)] 0#32 0x24#32 [(0x3FFFC#32, 0x124#32)] with iif := false } : State))).map
        (fun t => (t.pc, t.iif, t.sr.gie)) = some (0x124#32, true, false) := by decide

/-- T31. -/
theorem test_halt :
    (after (step (given [] 0#32 8#32 [(8#32, 0xF8000000#32)]))).map (fun t => (t.halted, t.pc))
      = some (true, 0xC#32) := by decide

/-- T31. -/
theorem test_halt_not_taken :
    (after (exec (.halt .eq) (given [] 0#32 0xC#32 []))).map (·.halted) = some false := by decide

/-! ## The step, interrupts and faults -/

/-- 41_move.md R151. -/
theorem test_withFetchWord_runs :
    (after (step (State.reset.withFetchWord 32 0x04000064))).map (fun t => (t.reg .r0, t.pc)) = some (0x64#32, 4#32) := by decide

theorem test_decodeTableWord :
    decodeTableWord 32 0xD8000001 = some (.reti .always) ∧ decodeTableWord 32 0xD8000002 = none := by decide

/-- The start of every row of T32, with MOVE R0, R0 at 0x2C. -/
def t32 (int0 nmi gie iif : Bool) : State :=
  { given [(.r7, 0x40000#32)] (if gie then 0x10#32 else 0#32) 0x2C#32 [(8#32, 0x100#32), (0x2C#32, 0#32)] with
    iif := iif, lines := samples [⟨int0, nmi⟩, ⟨int0, false⟩] }

/-- What T32 says of a step. -/
def t32After (o : Option State) : Option (Word × Word × Option Word × Bool × Bool) :=
  o.map (fun t => (t.pc, t.reg .r7, wordAt t 0x3FFFC#32, t.sr.gie, t.iif))

/-- T32. -/
theorem test_int0_entry :
    t32After (after (step (t32 true false true true))) = some (0x100#32, 0x3FFFC#32, some 0x2C#32, false, true) := by decide

/-- T32. -/
theorem test_int0_masked :
    t32After (after (step (t32 true false false true))) = some (0x30#32, 0x40000#32, none, false, true) := by decide

/-- T32. -/
theorem test_nmi_entry :
    t32After (after (step (t32 false true false true))) = some (0xC#32, 0x3FFFC#32, some 0x2C#32, false, false) := by decide

/-- T32. -/
theorem test_nmi_masked :
    t32After (after (step (t32 false true true false))) = some (0x30#32, 0x40000#32, none, true, false) := by decide

/-- T32. -/
theorem test_int0_when_nmi_masked :
    t32After (after (step (t32 true true true false))) = some (0x100#32, 0x3FFFC#32, some 0x2C#32, false, false) := by decide

/-- 60_exceptions.md R234, 44_system.md R202: a line that stays at 1 takes INT0 at each boundary with GIE at 1, here again
right after RETI. -/
theorem test_int0_held :
    let s := { given [(.r7, 0x40000#32)] 0x10#32 0x2C#32 [(8#32, 0x100#32), (0x100#32, 0xD8000001#32)] with
      lines := { given := [], source := .held ⟨true, false⟩, passed := 0 } }
    (((after (step s)).bind (fun t => after (step t))).bind (fun t => after (step t))).map
      (fun t => (t.pc, t.reg .r7, t.sr.gie)) = some (0x100#32, 0x3FFFC#32, false) := by decide

/-- T32. -/
theorem test_nmi_then_int0 :
    ((after (step (t32 true true true true))).bind (fun t => after (step t))).map
      (fun t => (t.pc, t.reg .r7, wordAt t 0x3FFF8#32, t.sr.gie, t.iif)) = some (0x100#32, 0x3FFF8#32, some 0xC#32, false, false) := by decide

/-- T33. -/
theorem test_fault_illegal :
    faultOf (step (State.reset.withFetchWord 32 0x38000000)) = some (.illegalInstruction 0x38000000#32 0#32) := by decide

/-- T33. -/
theorem test_fault_reserved :
    faultOf (step (State.reset.withFetchWord 32 0xC3C00000)) = some (.reservedEncoding 0xC3C00000#32 0#32) := by decide

/-- T30. -/
theorem test_fault_misaligned :
    faultOf (step (given [] 0#32 0x106#32 [])) = some (.misalignedFetch 0x106#32) := by decide

/-- 93_implementation_defined.md U6, the alternative reading. -/
theorem test_fetch_masks :
    (after (step ({ given [] 0#32 2#32 [(0#32, 0x04000064#32)] with
      params := { defaultParams with fetchMode := .mask } } : State))).map (fun t => (t.reg .r0, t.pc)) = some (0x64#32, 6#32) := by decide

/-- 00_scope.md R7, 70_reset_and_hazards.md R270, 93 U16: `RESET_STATE` is a parameter that the start of a run and a later
reset take. -/
theorem test_reset_state_is_a_parameter :
    (let p := { defaultParams with resetState := { pc := 0x100#32, sr := Status.ofWord 0x1F#32, iif := false } }
     let s := boot p [(0, 1#8)] (samples [])
     let t := resetAgain [] { s with pc := 8#32, sr := Status.ofWord 0#32, iif := true, halted := true }
     s.pc = 0x100#32 ∧ s.sr.toWord = 0x1F#32 ∧ s.iif = false ∧
       t.pc = 0x100#32 ∧ t.sr.toWord = 0x1F#32 ∧ t.iif = false ∧ t.halted = false) ∧
    (boot defaultParams [] (samples [])).pc = 0#32 ∧ (boot defaultParams [] (samples [])).sr.toWord = 0#32 ∧
      (boot defaultParams [] (samples [])).iif = true := by decide

/-- 70_reset_and_hazards.md R271. -/
theorem test_fault_unwritten : faultOf (step (given [] 0#32 0#32 [])) = some (.unwrittenRead 0#32) := by decide

/-- 20_memory.md R65. -/
theorem test_fault_unmapped :
    faultOf (exec (.storeAbs .r0 0x1000#20) ({ State.reset with params := { defaultParams with memMap := [] } } : State))
      = some (.unmappedAccess 0x1000#32 .word .write) := by decide

/-- 20_memory.md R70. -/
theorem test_self_modifying :
    (after (exec (.storeAbs .r0 0x24#20) (given [(.r0, 0x04000064#32)] 0#32 0x24#32 [(0x24#32, 0#32)]))).bind
      (fun t => (after (step t)).map (·.reg .r0)) = some 0x64#32 := by decide

/-! ## The assembler -/

/-- The cells of a word at an address. -/
def cells (a : Nat) (w : Word) : List Cell := (List.range 4).map (fun k => (a + k, byteOfWord w k))

/-- T7. -/
theorem test_assemble_startup :
    (Asm.assemble defaultOpcodeMap .hexadecimal "ORG 0\n MOVE 40000, R7 ; stack\n JP MAIN\nORG 8\n DW MAIN\nORG 1000\nMAIN:\n HALT_EQ".toList).toOption
      = some (cells 0 0x07840000#32 ++ cells 4 0xC0001000#32 ++ cells 8 0x1000#32 ++ cells 0x1000 0xF8400000#32) := by decide +kernel

/-- 45_assembler.md R219 to R222. -/
theorem test_assemble_data :
    (Asm.assemble defaultOpcodeMap .decimal "A DH %D 1000\nB DB \"Hi\", 0\nC DS 1\nD EQU 0xFFFF0000".toList).toOption
      = some [(0, 0xE8#8), (1, 0x03#8), (2, 0x48#8), (3, 0x69#8), (4, 0#8)] := by decide +kernel

/-- 45_assembler.md R216, R222: symbols in ORG, DS and EQU, and EQU symbols before their definition. -/
theorem test_assemble_symbols :
    (Asm.assemble defaultOpcodeMap .decimal "B DS N\nORG T\nX DB 1\nT EQU U\nU EQU 0x10\nN EQU 8\nC DB X, B".toList).toOption
      = some [(16, 1#8), (17, 16#8), (18, 0#8)] := by decide +kernel

/-- 45_assembler.md R216, R217: an ORG whose value is a label that stands behind a later ORG. -/
theorem test_assemble_forward_org :
    (Asm.assemble defaultOpcodeMap .decimal "ORG CODE\nHALT\nORG 0x100\nDATA DS 8\nCODE:".toList).toOption
      = some (cells 0x108 0xF8000000#32) := by decide +kernel

/-- What 45_assembler.md R210, R217, R223 and U19 refuse: case that matters, two labels, text no rule lists, regions that
overlap (the template of R225 among them). -/
theorem test_assemble_refuses :
    ["r0 EQU 5", "L: HALT\nl: HALT", "L: X DW 1", "X ORG 8", "ORG %H 8", "N EQU %D 5", "X EQU 5\nDW %D X",
      "X EQU 5\nMOVE -X, R0", "A EQU B\nB EQU A", "ORG 0\nDS 100\nORG 8\nDW 1", "HALT\nHALT\nHALT\nORG 8\nDW 1",
      "JR 0x100000008"].all (fun t => (Asm.assemble defaultOpcodeMap .decimal t.toList).toOption.isNone) = true := by decide +kernel

/-- 45_assembler.md R215. -/
theorem test_field20 :
    Asm.field20 (-524288) = .ok 0x80000#20 ∧ Asm.field20 0xFFFF0000 = .ok 0xF0000#20 ∧ Asm.field20 524288 = .error .outOfRange := by decide +kernel

/-! ## States that meet the hypotheses of the statements -/

/-- A state with another map. -/
def withMap (s : State) (map : List Config.Region) : State := { s with params := { s.params with memMap := map } }

/-- A state with lines to come. -/
def withLines (s : State) (ls : List LineSample) : State := { s with lines := samples ls }

/-- An image with HALT at 0. -/
def haltAt0 : State := State.reset.withFetchWord 32 0xF8000000

theorem test_hyp_DecodeOfEncode : defaultOpcodeMap.Distinct ∧ exchanged.Distinct ∧ (Instr.jr .nv 0xFFFFF#20).WellFormed ∧ (Instr.addR .r7 .r7 .r7).WellFormed := by decide

theorem test_hyp_EncodeOfDecode : decode exchanged 0x31020000#32 = .ok (.addR .r2 .r0 .r1) ∧ decode defaultOpcodeMap 0#32 = .ok (.moveR .r0 .r0) ∧ decode defaultOpcodeMap 0xFB800000#32 = .ok (.halt .nv) := by
  decide

theorem test_hyp_DecodesExactlyTheTable :
    decode defaultOpcodeMap 0xFB800000#32 = .ok (.halt .nv) ∧ rowOf (.halt .nv) ∈ opcodeRows ∧ (rowOf (.halt .nv)).holds 0xFB800000#32 ∧
    opOf exchanged (opcodeField 0x31020000#32) = opOf defaultOpcodeMap (opcodeField 0x21020000#32) ∧
    (0x31020000#32).extractLsb' 0 27 = (0x21020000#32).extractLsb' 0 27 := by
  refine ⟨by decide, by decide, ?_, by decide, by decide⟩
  unfold Row.holds
  decide

theorem test_hyp_ReservedOpcodesFault :
    let s := State.reset.withFetchWord 32 0x38000000
    s.halted = false ∧ Quiet s ∧ (∃ t, fetch s.passBoundary = .ok (0x38000000#32, t)) ∧
      decode s.params.opcodeMap 0x38000000#32 = .error .illegalInstruction :=
  ⟨rfl, by decide, ⟨_, rfl⟩, by decide⟩

theorem test_hyp_ReservedEncodingsFault :
    let s := State.reset.withFetchWord 32 0xFFFFFFFF
    s.halted = false ∧ Quiet s ∧ (∃ t, fetch s.passBoundary = .ok (0xFFFFFFFF#32, t)) ∧
      decode s.params.opcodeMap 0xFFFFFFFF#32 = .error .reservedEncoding :=
  ⟨rfl, by decide, ⟨_, rfl⟩, by decide⟩

theorem test_hyp_StepKeepsInvariant :
    haltAt0.Inv ∧ (∃ t, step haltAt0 = .next t) ∧
      (let s := given [(.r7, 0x40000000#32)] 0#32 0#32 [(0#32, 0x88000000#32)]
       s.Inv ∧ ∃ t, step s = .next t) :=
  ⟨by decide, next_of_after (by decide), by decide, next_of_after (by decide)⟩

/-- The last word of plain memory, and the last word of the address space, which is the environment's. -/
theorem test_hyp_StepRunsDecoded :
    (let s := given [] 0#32 0x3FFFFFFC#32 [(0x3FFFFFFC#32, 0#32)]
     s.halted = false ∧ Quiet s ∧ s.pc &&& 3#32 = 0#32 ∧ decode s.params.opcodeMap 0#32 = .ok (.moveR .r0 .r0) ∧ PlainAt s s.pc .word ∧
       StoredAt s s.pc .word 0#32) ∧
    (let s := given [] 0#32 0xFFFFFFFC#32 []
     s.halted = false ∧ Quiet s ∧ s.pc &&& 3#32 = 0#32 ∧ IoAt s s.pc .word) ∧
    (let s := { given [] 0#32 7#32 [(4#32, 0#32)] with params := { defaultParams with fetchMode := .mask } }
     s.halted = false ∧ Quiet s ∧ s.params.fetchMode = .mask ∧ PlainAt s s.pc .word ∧ StoredAt s s.pc .word 0#32) := by
  decide

theorem test_hyp_HaltedStepChangesNothing : ({ State.reset with halted := true } : State).halted = true := rfl

theorem test_hyp_MisalignedFetchFaults :
    (let s := given [] 0#32 1#32 []
     s.halted = false ∧ Quiet s ∧ s.params.fetchMode = .fault ∧ s.pc.toNat % 4 ≠ 0) ∧
    (let s := given [] 0#32 0xFFFFFFFF#32 []
     s.halted = false ∧ Quiet s ∧ s.params.fetchMode = .fault ∧ s.pc.toNat % 4 ≠ 0) := by decide

theorem test_hyp_UndefinedFetchFaults :
    (let s := given [] 0#32 0#32 []
     s.halted = false ∧ Quiet s ∧ s.pc.toNat % 4 = 0 ∧ PlainAt s s.pc .word ∧ FirstMissing s s.pc .word 0#32) ∧
    (let s := { given [] 0#32 3#32 [] with
       mem := [(0, 0#8), (1, 0#8), (2, 0#8)], params := { defaultParams with fetchMode := .mask } }
     s.halted = false ∧ Quiet s ∧ s.params.fetchMode = .mask ∧ PlainAt s s.pc .word ∧
       FirstMissing s s.pc .word 3#32) := by decide

/-- R7 at the lowest value whose push stays in plain memory, and at 0, whose push is the environment's. -/
theorem test_hyp_NmiEntry :
    (let s := withLines (given [(.r7, 4#32)] 0x10#32 0#32 []) [⟨true, true⟩]
     s.halted = false ∧ s.sample.nmi = true ∧ s.iif = true ∧ PlainAt s (s.reg .r7 - 4#32) .word) ∧
    (let s := withLines State.reset [⟨false, true⟩]
     s.halted = false ∧ s.sample.nmi = true ∧ s.iif = true ∧ IoAt s (s.reg .r7 - 4#32) .word) := by decide

/-- The vector word in plain memory, first with the push on top of it; then the vector word in `IO_REGION`. -/
theorem test_hyp_Int0Entry :
    (let s := withLines (given [(.r7, 12#32)] 0x10#32 0x2C#32 []) [⟨true, false⟩]
     TakesInt0 s ∧ PlainAt s (s.reg .r7 - 4#32) .word ∧ PlainAt s 8#32 .word ∧
       align (s.reg .r7 - 4#32) .word = 8#32) ∧
    (let s := withLines (given [(.r7, 0x40000#32)] 0x10#32 0x2C#32 [(8#32, 0x100#32)]) [⟨true, false⟩]
     TakesInt0 s ∧ PlainAt s (s.reg .r7 - 4#32) .word ∧ PlainAt s 8#32 .word ∧
       align (s.reg .r7 - 4#32) .word ≠ 8#32 ∧ StoredAt s 8#32 .word 0x100#32) ∧
    (let s := withLines (given [] 0x10#32 0x2C#32 [(8#32, 0x100#32)]) [⟨true, false⟩]
     TakesInt0 s ∧ IoAt s (s.reg .r7 - 4#32) .word ∧ PlainAt s 8#32 .word ∧ StoredAt s 8#32 .word 0x100#32) ∧
    (let s := withLines (withMap (given [(.r7, 8#32)] 0x10#32 0x2C#32 []) [⟨0, 7, .plain⟩, ⟨8, 11, .io⟩])
       [⟨true, false⟩]
     TakesInt0 s ∧ PlainAt s (s.reg .r7 - 4#32) .word ∧ IoAt s 8#32 .word) ∧
    (let s := withLines (withMap (given [(.r7, 16#32)] 0x10#32 0x2C#32 []) [⟨0, 7, .plain⟩, ⟨8, 15, .io⟩])
       [⟨true, false⟩]
     TakesInt0 s ∧ IoAt s (s.reg .r7 - 4#32) .word ∧ IoAt s 8#32 .word) := by decide

theorem test_hyp_Int0EntryThenReti :
    let s := given [(.r7, 0x40000#32)] 0x10#32 0x2C#32 [(8#32, 0x100#32)]
    (enterInterrupt s .int0).toOption.isSome = true ∧ s.sr.gie = true ∧ PlainAt s (s.reg .r7 - 4#32) .word := by decide

theorem test_hyp_NmiEntryThenRetn :
    let s := given [(.r7, 0x40000#32)] 0#32 0x2C#32 []
    (enterInterrupt s .nmi).toOption.isSome = true ∧ s.iif = true ∧ PlainAt s (s.reg .r7 - 4#32) .word := by decide

/-- A bit number at each end, and the first amount that shifts a bit out. -/
theorem test_hyp_bit_numbers : 0 < 32 ∧ 31 < 32 ∧ shiftAmount State.reset 1#32 ≠ 0 := by decide

theorem test_hyp_ShiftAmountByMode :
    State.reset.params.shiftMode = .full ∧
      ({ defaultParams with shiftMode := .mod32 } : Config.Params).shiftMode = .mod32 := by decide

/-- The last aligned word of plain memory, by an address one byte short of the region's end; the last address the absolute
form reaches below the middle; the first address of `IO_REGION`; the lowest address the absolute form reaches there. -/
theorem test_hyp_LoadReadsWord :
    (let s := given [(.r1, 0x3FFFFFFE#32)] 0#32 0#32 [(0x3FFFFFFC#32, 7#32)]
     PlainAt s (s.reg .r1 + (1#20).signExtend 32) .word ∧ StoredAt s (s.reg .r1 + (1#20).signExtend 32) .word 7#32) ∧
    (let s := given [] 0#32 0#32 [(0x7FFFC#32, 7#32)]
     PlainAt s ((0x7FFFF#20).signExtend 32) .word ∧ StoredAt s ((0x7FFFF#20).signExtend 32) .word 7#32) ∧
    (let s := given [(.r1, 0x3FFFFFFF#32)] 0#32 0#32 []
     IoAt s (s.reg .r1 + (1#20).signExtend 32) .word) ∧
    IoAt State.reset ((0x80000#20).signExtend 32) .word := by decide

theorem test_hyp_NarrowLoadsExtend :
    (let s := given [(.r1, 0x3FFFFFFF#32)] 0#32 0#32 [(0x3FFFFFFC#32, 0x80817F01#32)]
     PlainAt s (baseAddress s .r1 0#20) .half ∧ StoredAt s (baseAddress s .r1 0#20) .half 0x8081#32 ∧
       PlainAt s (baseAddress s .r1 0#20) .byte ∧ StoredAt s (baseAddress s .r1 0#20) .byte 0x80#32) ∧
    (let s := given [] 0#32 0#32 [(0x7FFFC#32, 0x80817F01#32)]
     PlainAt s (absAddress 0x7FFFF#20) .half ∧ StoredAt s (absAddress 0x7FFFF#20) .half 0x8081#32 ∧
       PlainAt s (absAddress 0x7FFFF#20) .byte ∧ StoredAt s (absAddress 0x7FFFF#20) .byte 0x80#32) ∧
    (let s := given [(.r1, 0x40000000#32)] 0#32 0#32 []
     IoAt s (baseAddress s .r1 0#20) .half ∧ IoAt s (baseAddress s .r1 0#20) .byte) ∧
    IoAt State.reset (absAddress 0xFFFFF#20) .half ∧ IoAt State.reset (absAddress 0xFFFFF#20) .byte := by decide

theorem test_hyp_StoreWritesWord :
    (let s := given [(.r1, 0x3FFFFFFF#32)] 0#32 0#32 []
     PlainAt s (s.reg .r1 + (0#20).signExtend 32) .word) ∧
    PlainAt State.reset ((0x7FFFF#20).signExtend 32) .word ∧
    (let s := given [(.r1, 0x40000000#32)] 0#32 0#32 []
     IoAt s (s.reg .r1 + (0#20).signExtend 32) .word) ∧
    IoAt State.reset ((0xFFFFF#20).signExtend 32) .word := by decide

theorem test_hyp_NarrowStoresWriteLowBits :
    (let s := given [(.r1, 0x3FFFFFFF#32)] 0#32 0#32 []
     PlainAt s (baseAddress s .r1 0#20) .half ∧ PlainAt s (baseAddress s .r1 0#20) .byte) ∧
    PlainAt State.reset (absAddress 0x7FFFF#20) .half ∧ PlainAt State.reset (absAddress 0x7FFFF#20) .byte ∧
    (let s := given [(.r1, 0x40000000#32)] 0#32 0#32 []
     IoAt s (baseAddress s .r1 0#20) .half ∧ IoAt s (baseAddress s .r1 0#20) .byte) ∧
    IoAt State.reset (absAddress 0x80000#20) .half ∧ IoAt State.reset (absAddress 0x80000#20) .byte := by decide

theorem test_hyp_MixedWidthReads : (0xFFFFFFFC#32).toNat % 4 = 0 ∧ 0 < 4 ∧ 3 < 4 := by decide

theorem test_hyp_PushStoresBelow :
    (let s := given [(.r7, 0x40000003#32)] 0#32 0#32 []
     PlainAt s (s.reg .r7 - 4#32) .word) ∧
    IoAt State.reset (State.reset.reg .r7 - 4#32) .word := by decide

theorem test_hyp_PopLoadsAndRaises :
    (let s := given [(.r7, 0x3FFFFFFF#32)] 0#32 0#32 [(0x3FFFFFFC#32, 7#32)]
     PlainAt s (s.reg .r7) .word ∧ StoredAt s (s.reg .r7) .word 7#32) ∧
    (let s := given [(.r7, 0x40000000#32)] 0#32 0#32 []
     IoAt s (s.reg .r7) .word) := by decide

theorem test_hyp_PopAfterPush :
    let s := given [(.r7, 4#32)] 0#32 0#32 []
    (Reg.r0 ≠ .r7) ∧ (Reg.r6 ≠ .r7) ∧ PlainAt s (s.reg .r7 - 4#32) .word ∧ ∃ t, exec (.push .r0) s = .next t :=
  ⟨by decide, by decide, by decide, next_of_after (by decide)⟩

/-- Every class of access at an unpopulated address: a map of one plain word at 0x1000, and the addresses beside it. -/
theorem test_hyp_UnmappedAccessesFault :
    (let s := withMap (given [(.r1, 0x1004#32), (.r7, 0x1008#32)] 0#32 0#32 []) [⟨0x1000, 0x1003, .plain⟩]
     UnmappedAt s (baseAddress s .r1 0#20) .word ∧ UnmappedAt s (absAddress 0xFFF#20) .word ∧
       UnmappedAt s (baseAddress s .r1 0#20) .half ∧ UnmappedAt s (absAddress 0xFFF#20) .half ∧
       UnmappedAt s (baseAddress s .r1 0#20) .byte ∧ UnmappedAt s (absAddress 0xFFF#20) .byte ∧
       UnmappedAt s (s.reg .r7 - 4#32) .word ∧ UnmappedAt s (s.reg .r7) .word ∧ Holds .always s) ∧
    (let s := withLines (withMap (given [(.r7, 0x1000#32)] 0x10#32 0#32 []) [⟨0x1000, 0x1003, .plain⟩]) [⟨true, false⟩]
     UnmappedAt s (s.reg .r7 - 4#32) .word ∧ s.halted = false ∧ ¬ Quiet s) ∧
    (let s := withMap (given [] 0#32 0x1004#32 []) [⟨0x1000, 0x1003, .plain⟩]
     s.halted = false ∧ Quiet s ∧ UnmappedAt s s.pc .word ∧ s.pc &&& 3#32 = 0#32) ∧
    (let s := { given [] 0#32 0xFFF#32 [] with
       params := { defaultParams with fetchMode := .mask, memMap := [⟨0x1000, 0x1003, .plain⟩] } }
     s.halted = false ∧ Quiet s ∧ UnmappedAt s s.pc .word ∧ s.params.fetchMode = .mask) ∧
    (let s := withLines (withMap (given [(.r7, 0x10#32)] 0x10#32 0#32 []) [⟨12, 15, .plain⟩]) [⟨true, false⟩]
     TakesInt0 s ∧ ¬ UnmappedAt s (s.reg .r7 - 4#32) .word ∧ UnmappedAt s 8#32 .word) := by decide

/-- The first byte missing, and the last byte of an access missing. -/
theorem test_hyp_UndefinedReadsFault :
    (let s := given [(.r1, 0x1000#32), (.r7, 0x1000#32)] 0#32 0#32 []
     PlainAt s (baseAddress s .r1 0#20) .word ∧ FirstMissing s (baseAddress s .r1 0#20) .word 0x1000#32 ∧
       PlainAt s (absAddress 0x1000#20) .word ∧ FirstMissing s (absAddress 0x1000#20) .word 0x1000#32 ∧
       PlainAt s (baseAddress s .r1 0#20) .byte ∧ FirstMissing s (baseAddress s .r1 0#20) .byte 0x1000#32 ∧
       PlainAt s (absAddress 0x1000#20) .byte ∧ FirstMissing s (absAddress 0x1000#20) .byte 0x1000#32 ∧
       PlainAt s (s.reg .r7) .word ∧ FirstMissing s (s.reg .r7) .word 0x1000#32 ∧ Holds .always s) ∧
    (let s := { given [(.r1, 0x1000#32)] 0#32 0#32 [] with mem := [(0x1000, 0#8)] }
     PlainAt s (baseAddress s .r1 0#20) .half ∧ FirstMissing s (baseAddress s .r1 0#20) .half 0x1001#32 ∧
       PlainAt s (absAddress 0x1000#20) .half ∧ FirstMissing s (absAddress 0x1000#20) .half 0x1001#32) := by decide

/-- The vector word with one byte defined, and with none, the push in plain memory and in `IO_REGION`. -/
theorem test_hyp_UndefinedReadsFault_vector :
    (let s := { withLines (given [(.r7, 0x10#32)] 0x10#32 0#32 []) [⟨true, false⟩] with mem := [(8, 0#8)] }
     TakesInt0 s ∧ ¬ UnmappedAt s (s.reg .r7 - 4#32) .word ∧
       ¬ (PlainAt s (s.reg .r7 - 4#32) .word ∧ align (s.reg .r7 - 4#32) .word = 8#32) ∧ PlainAt s 8#32 .word ∧
       FirstMissing s 8#32 .word 9#32) ∧
    (let s := withLines (given [] 0x10#32 0#32 []) [⟨true, false⟩]
     TakesInt0 s ∧ IoAt s (s.reg .r7 - 4#32) .word ∧ FirstMissing s 8#32 .word 8#32) := by decide

theorem test_hyp_FalseConditionDoesNothing :
    (Instr.halt .eq).WellFormed ∧ ¬ Holds (Instr.halt .eq).cond State.reset := by decide

/-- For the jumps, the calls, the returns and HALT: a condition that always holds, and one that tests a flag. -/
theorem test_hyp_JumpsGoToTarget : Holds .always State.reset ∧ Holds .nv State.reset := by decide

theorem test_hyp_CallCalls :
    (let s := given [(.r7, 4#32)] 4#32 0#32 []
     Holds .eq s ∧ PlainAt s (s.reg .r7 - 4#32) .word) ∧
    Holds .always State.reset ∧ IoAt State.reset (State.reset.reg .r7 - 4#32) .word := by decide

theorem test_hyp_ReturnsPopPc :
    (let s := given [(.r7, 0x3FFFFFFC#32)] 4#32 0#32 [(0x3FFFFFFC#32, 0x124#32)]
     Holds .eq s ∧ PlainAt s (s.reg .r7) .word ∧ StoredAt s (s.reg .r7) .word 0x124#32) ∧
    (let s := given [(.r7, 0x40000000#32)] 0#32 0#32 []
     Holds .always s ∧ IoAt s (s.reg .r7) .word) := by decide

theorem test_hyp_RetAfterCall :
    let s := given [(.r7, 0x40000#32)] 0#32 0x24#32 []
    Holds .always s ∧ PlainAt s (s.reg .r7 - 4#32) .word ∧ (∃ t, exec (.callAddr .always 0x100#20) s = .next t) ∧
      ∃ t, exec (.callReg .always .r7) s = .next t :=
  ⟨by decide, by decide, next_of_after (by decide), next_of_after (by decide)⟩

theorem test_hyp_HaltStops : Holds .always State.reset ∧ Holds .uge State.reset := by decide

theorem test_hyp_SrWriters :
    writesSr (.moveI .r0 1#20) = false ∧ ¬ writesGie (.moveI .r0 1#20) ∧
      ∃ t, exec (.moveI .r0 1#20) State.reset = .next t :=
  ⟨rfl, by simp [writesGie], _, rfl⟩

/-- NMI entry, and RETN with IIF at 0. -/
theorem test_hyp_IifChangers :
    (after (step (t32 false true false true))).map (·.iif) = some false ∧ (t32 false true false true).iif = true ∧
    (let s := { given [(.r7, 0x1000#32)] 0#32 0#32 [(0#32, 0xD8000003#32), (0x1000#32, 0x124#32)] with iif := false }
     (after (step s)).map (·.iif) = some true ∧ s.iif = false) := by decide

theorem test_hyp_HaltedSetOnlyByHalt :
    haltAt0.halted = false ∧ (after (step haltAt0)).map (·.halted) = some true ∧
      (let s := { State.reset with halted := true }
       s.halted = true ∧ ∃ t, step s = .next t) :=
  ⟨rfl, by decide, rfl, _, rfl⟩

theorem test_hyp_PcOnlyByControlTransfers :
    writesPc (.halt .always) = false ∧ ∃ t, exec (.halt .always) State.reset = .next t :=
  ⟨rfl, _, rfl⟩

theorem test_hyp_RegistersWritten :
    (Reg.r7 ∉ writtenRegs (.addR .r0 .r7 .r7)) ∧ ∃ t, exec (.addR .r0 .r7 .r7) State.reset = .next t :=
  ⟨by decide, _, rfl⟩

theorem test_hyp_MemoryWritten :
    storeTarget (.cmpR .r0 .r1) State.reset = none ∧ (∃ t, exec (.cmpR .r0 .r1) State.reset = .next t) ∧
      storeTarget (.storebAbs .r0 0x7FFFF#20) State.reset = some (0x7FFFF#32, .byte) ∧
      ∃ t, exec (.storebAbs .r0 0x7FFFF#20) State.reset = .next t :=
  ⟨rfl, ⟨_, rfl⟩, by decide, next_of_after (by decide)⟩

theorem test_hyp_InstructionsStopOnlyAtMemory :
    (Instr.loadAbs .r0 0#20).WellFormed ∧
      faultOf (exec (.loadAbs .r0 0#20) State.reset) = some (.unwrittenRead 0#32) ∧
      ¬ (Instr.ret .reserved).WellFormed := by decide

theorem test_hyp_DeviceRecordOnlyGrows : ∃ t, step haltAt0 = .next t := next_of_after (by decide)

theorem test_hyp_BootMemoryIsImage :
    (∀ b : Byte, ((5 : Nat), b) ∉ ([(4, 1#8), (4, 2#8)] : List Cell)) ∧
      ([(4, 1#8), (4, 2#8)] : List Cell) = [(4, 1#8)] ++ (4, 2#8) :: [] ∧
      ∀ c : Byte, ((4 : Nat), c) ∉ ([] : List Cell) :=
  ⟨by simp, rfl, by simp⟩

/-- An image at both ends of the plain memory of the default map. -/
theorem test_hyp_ResetMeetsInvariant :
    ∀ c ∈ ([(0x3FFFFFFF, 1#8), (0, 2#8)] : List Cell), c.1 < 2 ^ 32 ∧ regionAt defaultParams.memMap c.1 = some .plain := by
  decide

theorem test_hyp_AssemblerFieldRange :
    Asm.field20 0xFFF80000 = .ok 0x80000#20 ∧ Asm.field20 524287 = .ok 0x7FFFF#20 ∧
      ((0x80000#20).signExtend 32).toInt = -524288 ∧ (((0xFFFFF#20).signExtend 32).toNat : Int) = 0xFFFFFFFF := by
  decide +kernel

theorem test_hyp_AssemblerRelativeField :
    Asm.relField 0x100 0x10C = .ok 8#20 ∧ (given [] 0#32 0x104#32 []).pc = BitVec.ofNat 32 (0x100 + 4) ∧
      Asm.relField 0 0xFFFFFFFF = .ok 0xFFFFB#20 ∧ Asm.relField 0 0x100000000 = .error .outOfRange ∧
      Asm.relField 0 (-1) = .error .outOfRange := by
  decide +kernel

end

end Sys2Proof.Tests
end

section
/-! SUPPORT. What a fetch gives, by what answers it, and the step that runs what was fetched (00_scope.md R11,
60_exceptions.md R236). -/

namespace Sys2Proof.Machine

open Sys2Proof Host

/-- A fetch from plain memory gives the word that stands there and changes the pc only. -/
theorem fetch_stored {s : State} {v : Word} (ha : s.pc &&& 3#32 = 0#32 ∨ s.params.fetchMode = .mask)
    (hp : PlainAt s s.pc .word) (hs : StoredAt s s.pc .word v) :
    fetch s = .ok (v, s.setPc (s.pc + 4#32)) := by
  rw [fetch_eq ha, memRead_stored hp hs]
  rfl

/-- A fetch in `IO_REGION` gives the environment's answer and records the access (20_memory.md R52). -/
theorem fetch_io {s : State} (ha : s.pc &&& 3#32 = 0#32 ∨ s.params.fetchMode = .mask) (hp : IoAt s s.pc .word) :
    fetch s = .ok (Config.ioAnswer s.io (align s.pc .word) .word,
      { s.setPc (s.pc + 4#32) with
        io := s.io ++ [.read (align s.pc .word) .word (Config.ioAnswer s.io (align s.pc .word) .word)] }) := by
  rw [fetch_eq ha, memRead_io hp]
  rfl

/-- Settles O11: the boundary moves neither the pc nor memory, so the word that stands at the pc, or the environment's
answer there, is what the step fetches and runs. -/
theorem stepRunsDecoded : Obligations.StepRunsDecoded := by
  intro s i w hrun hquiet haligned hdecode
  constructor
  · intro hplain hstored
    have hfetch := fetch_stored (s := s.passBoundary) haligned hplain hstored
    exact step_runs hrun hquiet hfetch hdecode
  · rintro hio rfl
    have hfetch := fetch_io (s := s.passBoundary) haligned hio
    exact step_runs hrun hquiet hfetch hdecode

end Sys2Proof.Machine
end

section
/-! SUPPORT. A run of writes, which both the loaded image and a store are, and the invariant of memory that it keeps
(10_state.md R38, 70_reset_and_hazards.md R271, 20_memory.md R53). -/

namespace Sys2Proof.Machine

open Sys2Proof Host

/-- Every cell of a list written, in order. -/
def Memory.writeAll (m : Memory) (cells : List Cell) : Memory := cells.foldl (fun m c => m.write c.1 c.2) m

theorem Memory.ofImage_eq_writeAll (image : List Cell) : Memory.ofImage image = Memory.writeAll [] image := rfl

/-- The cells a store writes: one for each byte of its width, upwards from its address. -/
def storeCells (a : Word) (w : Width) (v : Word) : List Cell :=
  (List.range w.bytes).map fun k => ((a + BitVec.ofNat 32 k).toNat, byteOfWord v k)

theorem Memory.store_eq_writeAll (m : Memory) (a : Word) (w : Width) (v : Word) :
    m.store a w v = m.writeAll (storeCells a w v) := by
  cases w <;> simp [Memory.store, Memory.writeAll, storeCells, Width.bytes, List.range_succ, -BitVec.toNat_add]

theorem Memory.wf_writeAll (m : Memory) (cells : List Cell) (h : m.wf = true) : (m.writeAll cells).wf = true := by
  induction cells generalizing m with
  | nil => exact h
  | cons c rest ih => exact ih _ (Memory.wf_write m c.1 c.2 h)

/-- An entry of memory after a run of writes was written by it or stood there before. -/
theorem Memory.mem_writeAll {m : Memory} {cells : List Cell} {c : Cell} (h : c ∈ m.writeAll cells) :
    c ∈ cells ∨ c ∈ m := by
  induction cells generalizing m with
  | nil => exact .inr h
  | cons x rest ih =>
    rcases ih h with hrest | hwrite
    · exact .inl (List.mem_cons_of_mem x hrest)
    · rcases Memory.mem_write m x.1 x.2 c hwrite with rfl | hm
      · exact .inl List.mem_cons_self
      · exact .inr hm

/-- The invariant survives a run of writes to plain memory. -/
theorem State.inv_writeAll {s : State} {cells : List Cell} (h : s.Inv)
    (hcells : ∀ c ∈ cells, c.1 < 2 ^ 32 ∧ regionAt s.params.memMap c.1 = some .plain) :
    ({ s with mem := s.mem.writeAll cells } : State).Inv := by
  obtain ⟨hwf, hplain⟩ := h
  refine ⟨Memory.wf_writeAll s.mem cells hwf, fun c hc => ?_⟩
  rcases Memory.mem_writeAll hc with hnew | hold
  · exact hcells c hnew
  · exact hplain c hold

/-- An access that plain memory answers touches bytes of plain memory only (20_memory.md R65). -/
theorem regionAt_of_accessKind_plain {map : List Config.Region} {a : Word} {w : Width}
    (h : accessKind map a w = some .plain) (k : Nat) (hk : k < w.bytes) :
    regionAt map (a.toNat + k) = some .plain := by
  have hmem : regionAt map (a.toNat + k) ∈ (List.range w.bytes).map fun k => regionAt map (a.toNat + k) :=
    List.mem_map.mpr ⟨k, List.mem_range.mpr hk, rfl⟩
  unfold accessKind at h
  dsimp only at h
  split at h
  · cases h
  · next hnone =>
    split at h
    · cases h
    · next hio =>
      rw [List.any_eq_true] at hnone hio
      match hr : regionAt map (a.toNat + k) with
      | none => exact absurd ⟨_, hmem, by simp [hr]⟩ hnone
      | some .io => exact absurd ⟨_, hmem, by simp [hr]⟩ hio
      | some .plain => rfl

/-- A store to plain memory keeps the invariant. -/
theorem State.inv_store {s : State} {addr : Word} {w : Width} (v : Word) (h : s.Inv) (hp : PlainAt s addr w) :
    ({ s with mem := s.mem.store (align addr w) w v } : State).Inv := by
  rw [Memory.store_eq_writeAll]
  refine State.inv_writeAll h fun c hc => ?_
  obtain ⟨k, hk, rfl⟩ := List.mem_map.mp hc
  have hlt : k < w.bytes := List.mem_range.mp hk
  have hend := align_end addr w
  rw [toNat_add_byte _ k (by omega)]
  exact ⟨by omega, regionAt_of_accessKind_plain hp k hlt⟩

theorem State.inv_reset : State.reset.Inv := ⟨rfl, fun _ hc => nomatch hc⟩

/-- Settles O9: the image is a run of writes to the empty memory of reset. -/
theorem resetMeetsInvariant : Obligations.ResetMeetsInvariant := by
  refine ⟨State.inv_reset, fun params image lines himage => ?_⟩
  have hempty : ({ State.reset with params := params, lines := lines } : State).Inv := ⟨rfl, fun _ hc => nomatch hc⟩
  exact State.inv_writeAll hempty himage

/-- Settles O7: each clause reads the values that `State.applyReset` writes, and `State.reset` has. -/
theorem resetControlState : Obligations.ResetControlState := by
  refine ⟨⟨rfl, by decide, rfl, rfl⟩, ⟨rfl, by decide, rfl⟩, fun params image lines => ?_, fun image s => ?_⟩
  · simp [Claims.InResetState, boot]
  · simp [Claims.InResetState, resetAgain]

end Sys2Proof.Machine
end

section
/-! SUPPORT. What a run from one state to another may change, with one rule for each shared operation. An instruction's
footprint is what the spec lets it write (10_state.md R22, R23, R25, R30, R32, R33, R35). -/

namespace Sys2Proof.Machine

open Sys2Proof Host

/-! ## Footprints -/

/-- What may be written. -/
structure Footprint where
  /-- The general registers. -/
  regs : List Reg
  /-- Whether SR may change. -/
  sr : Prop
  /-- Whether GIE may change. -/
  gie : Prop
  /-- Whether the pc may change. -/
  pc : Prop
  /-- The values IIF may take. -/
  iif : Bool → Prop
  /-- Whether the machine may halt. -/
  halts : Prop

/-- From `s` to `t` nothing outside the footprint changes, no halted machine wakes, and the invariant of memory is kept. -/
structure Within (p : Footprint) (s t : State) : Prop where
  regs : ∀ r, r ∉ p.regs → t.reg r = s.reg r
  sr : ¬ p.sr → t.sr = s.sr
  gie : ¬ p.gie → t.sr.gie = s.sr.gie
  pc : ¬ p.pc → t.pc = s.pc
  iif : t.iif = s.iif ∨ p.iif t.iif
  halted : t.halted = s.halted ∨ t.halted = true ∧ p.halts
  params : t.params = s.params
  inv : s.Inv → t.Inv

/-- What an instruction run at `s` may write. -/
def instrFootprint (i : Instr) (s : State) : Footprint where
  regs := writtenRegs i
  sr := writesSr i = true
  gie := writesGie i
  pc := writesPc i = true
  iif b := b = true ∧ ∃ c, i = .retn c
  halts := ∃ c, i = .halt c ∧ Holds c s

/-- What a fetch may write. -/
def fetchFootprint : Footprint where
  regs := []
  sr := False
  gie := False
  pc := True
  iif _ := False
  halts := False

/-- What taking an interrupt of a level may write (60_exceptions.md R238, R239). -/
def levelFootprint (l : Level) : Footprint where
  regs := [.r7]
  sr := l = .int0
  gie := l = .int0
  pc := True
  iif b := l = .nmi ∧ b = false
  halts := False

/-! ## The rules: each extends a run by one operation -/

section
variable {p : Footprint} {s t u : State}

theorem Within.refl (p : Footprint) (s : State) : Within p s s :=
  ⟨fun _ _ => rfl, fun _ => rfl, fun _ => rfl, fun _ => rfl, .inl rfl, .inl rfl, rfl, id⟩

theorem Within.setReg (h : Within p s t) {d : Reg} (hd : d ∈ p.regs) (v : Word) : Within p s (t.setReg d v) :=
  { h with regs := fun r hr => by rw [State.reg_setReg_other t d r v (fun e => hr (e ▸ hd)), h.regs r hr] }

theorem Within.setSr (h : Within p s t) (hsr : p.sr) {x : Status} (hgie : p.gie ∨ x.gie = s.sr.gie) :
    Within p s (t.setSr x) :=
  { h with
    sr := fun hn => absurd hsr hn
    gie := fun hn => hgie.resolve_left hn }

theorem Within.setPc (h : Within p s t) (hpc : p.pc) (v : Word) : Within p s (t.setPc v) :=
  { h with pc := fun hn => absurd hpc hn }

theorem Within.spend (h : Within p s t) (k : Nat) : Within p s (t.spend k) := { h with }

theorem Within.halt (h : Within p s t) (hp : p.halts) : Within p s { t with halted := true } :=
  { h with halted := .inr ⟨rfl, hp⟩ }

/-- GIE is a bit of SR, so writing it needs both. -/
theorem Within.setEnable_int0 (h : Within p s t) (hsr : p.sr) (hgie : p.gie) (on : Bool) :
    Within p s (t.setEnable .int0 on) :=
  h.setSr hsr (.inl hgie)

theorem Within.setEnable_nmi (h : Within p s t) {on : Bool} (hiif : p.iif on) : Within p s (t.setEnable .nmi on) :=
  { h with iif := .inr hiif }

theorem Within.memRead (h : Within p s t) {a v : Word} {w : Width} (hr : memRead t a w = .ok (v, u)) :
    Within p s u := by
  obtain ⟨e, rfl⟩ := memRead_state hr
  exact { h with }

theorem Within.memWrite (h : Within p s t) {a v : Word} {w : Width} (hw : memWrite t a w v = .ok u) :
    Within p s u := by
  rcases memWrite_cases hw with ⟨_, rfl⟩ | ⟨hplain, rfl⟩
  · exact { h with }
  · exact { h with inv := fun hs => State.inv_store v (h.inv hs) hplain }

theorem Within.pushWord (h : Within p s t) (h7 : Reg.r7 ∈ p.regs) {v : Word} (hp : pushWord t v = .ok u) :
    Within p s u :=
  (h.setReg h7 _).memWrite (pushWord_cases hp)

theorem Within.popWord (h : Within p s t) (h7 : Reg.r7 ∈ p.regs) {v : Word} (hp : popWord t = .ok (v, u)) :
    Within p s u := by
  obtain ⟨_, hr, rfl⟩ := popWord_cases hp
  exact (h.memRead hr).setReg h7 _

theorem Within.popPc (h : Within p s t) (h7 : Reg.r7 ∈ p.regs) (hpc : p.pc) (hp : popPc t = .ok u) :
    Within p s u := by
  obtain ⟨v, _, hw, rfl⟩ := popPc_cases hp
  exact (h.popWord h7 hw).setPc hpc v

theorem Within.loadOp (h : Within p s t) {d : Reg} (hd : d ∈ p.regs) {a : Word} {w : Width}
    (hl : loadOp d a w t = .ok u) : Within p s u := by
  unfold Machine.loadOp at hl
  split at hl
  · cases hl
  · next hr =>
    cases hl
    exact (h.memRead hr).setReg hd _

theorem Within.callOp (h : Within p s t) (h7 : Reg.r7 ∈ p.regs) (hpc : p.pc) {target : Word}
    (hc : callOp target t = .ok u) : Within p s u := by
  unfold Machine.callOp at hc
  split at hc
  · cases hc
  · next hp =>
    cases hc
    exact (h.pushWord h7 hp).setPc hpc target

/-- An instruction whose condition fails writes nothing. -/
theorem Within.of_whenHolds {i : Instr} {taken : Except Fault State} (h : whenHolds i s taken = .next t)
    (htaken : Holds i.cond s → taken = .ok t → Within p s t) : Within p s t := by
  rcases whenHolds_cases h with ⟨_, rfl⟩ | ⟨hc, ht⟩
  · exact .refl p t
  · exact htaken hc ht

/-- A machine that runs and then is halted has halted within the footprint. -/
theorem Within.halts (h : Within p s t) (hrun : s.halted = false) (hhalt : t.halted = true) : p.halts := by
  rcases h.halted with hsame | ⟨_, hp⟩
  · simp [hsame, hrun] at hhalt
  · exact hp

/-- A result in a register that the footprint holds, and its four flags (40_alu.md R122 to R125). -/
theorem Within.result {d : Reg} (hd : d ∈ p.regs) (hsr : p.sr) (res : Word) (c v z n : Bool) :
    Within p s ((s.setReg d res).setSr (s.sr.withFlags c v z n)) :=
  ((Within.refl p s).setReg hd res).setSr hsr (.inr rfl)

theorem Within.shiftOp {d : Reg} (hd : d ∈ p.regs) (hsr : p.sr) (v : Word) (carry : Option Bool) :
    Within p s (shiftOp d v carry s) :=
  (Within.result hd hsr v _ _ _ _).spend 2

theorem Within.rotateOp {d : Reg} (hd : d ∈ p.regs) (hsr : p.sr) (v : Word) : Within p s (rotateOp d v s) :=
  (Within.result hd hsr v _ _ _ _).spend 4

end

/-! ## The parts of a step -/

theorem within_of_fetch {s t : State} {ir : Word} (h : fetch s = .ok (ir, t)) : Within fetchFootprint s t := by
  obtain ⟨_, _, hr, rfl⟩ := fetch_cases h
  exact ((Within.refl _ s).memRead hr).setPc trivial _

theorem within_of_enterInterrupt {s t : State} {l : Level} (h : enterInterrupt s l = .ok t) :
    Within (levelFootprint l) s t := by
  obtain ⟨u, v, x, hpush, hhandler, rfl⟩ := enterInterrupt_cases h
  have h7 : Reg.r7 ∈ (levelFootprint l).regs := List.mem_singleton_self _
  have hstart := Within.refl (levelFootprint l) s
  cases l with
  | int0 => exact (((hstart.setEnable_int0 rfl rfl false).pushWord h7 hpush).memRead hhandler).setPc trivial x
  | nmi =>
    cases hhandler
    exact ((hstart.setEnable_nmi ⟨rfl, rfl⟩).pushWord h7 hpush).setPc trivial _

/-- The outcome of an operation that always completes. -/
theorem within_of_next {p : Footprint} {s t u : State}
    (h : (Outcome.next u : Outcome State Fault Refusal) = .next t) (hu : Within p s u) : Within p s t := by
  cases h
  exact hu

/-- Every instruction that completes stays within its footprint. -/
theorem within_of_exec {i : Instr} {s t : State} (h : exec i s = .next t) : Within (instrFootprint i s) s t := by
  have hstart := Within.refl (instrFootprint i s) s
  cases i with
  | addR d _ _ | addI d _ _ | adcR d _ _ | adcI d _ _ | subR d _ _ | subI d _ _
  | andR d _ _ | andI d _ _ | orR d _ _ | orI d _ _ | xorR d _ _ | xorI d _ _ =>
    exact within_of_next h (.result (List.mem_singleton_self d) rfl _ _ _ _ _)
  | shlR d _ _ | shlI d _ _ | shrR d _ _ | shrI d _ _ | ashrR d _ _ | ashrI d _ _ =>
    exact within_of_next h (.shiftOp (List.mem_singleton_self d) rfl _ _)
  | rotlR d _ _ | rotlI d _ _ | rotrR d _ _ | rotrI d _ _ =>
    exact within_of_next h (.rotateOp (List.mem_singleton_self d) rfl _)
  | cmpR | cmpI => exact within_of_next h (hstart.setSr rfl (.inr rfl))
  | moveR d _ | moveI d _ | moveFromSr d => exact within_of_next h (hstart.setReg (List.mem_singleton_self d) _)
  | moveToSrR r => exact within_of_next h (hstart.setSr rfl (.inl (.inl ⟨r, rfl⟩)))
  | moveToSrI v => exact within_of_next h (hstart.setSr rfl (.inl (.inr (.inl ⟨v, rfl⟩))))
  | loadBase d _ _ | loadAbs d _ | loadhBase d _ _ | loadhAbs d _ | loadbBase d _ _ | loadbAbs d _ =>
    exact hstart.loadOp (List.mem_singleton_self d) (finish_next.mp h)
  | storeBase | storeAbs | storehBase | storehAbs | storebBase | storebAbs =>
    exact hstart.memWrite (finish_next.mp h)
  | push r => exact (hstart.spend _).pushWord (List.mem_singleton_self _) (finish_next.mp h)
  | pop r =>
    unfold exec execPop at h
    dsimp only at h
    split at h
    · cases h
    · next hp =>
      cases h
      exact ((hstart.popWord (List.mem_cons_of_mem r List.mem_cons_self) hp).setReg List.mem_cons_self _).spend _
  | jpAddr | jpReg | jr => exact .of_whenHolds h fun _ ht => by cases ht; exact hstart.setPc rfl _
  | callAddr | callReg => exact .of_whenHolds h fun _ ht => hstart.callOp (List.mem_singleton_self _) rfl ht
  | ret => exact .of_whenHolds h fun _ ht => hstart.popPc (List.mem_singleton_self _) rfl ht
  | reti c =>
    refine .of_whenHolds h fun _ ht => ?_
    obtain ⟨u, hp, rfl⟩ := leaveInterrupt_cases ht
    exact (hstart.popPc (List.mem_singleton_self _) rfl hp).setEnable_int0 rfl (.inr (.inr ⟨c, rfl⟩)) true
  | retn c =>
    refine .of_whenHolds h fun _ ht => ?_
    obtain ⟨u, hp, rfl⟩ := leaveInterrupt_cases ht
    exact (hstart.popPc (List.mem_singleton_self _) rfl hp).setEnable_nmi ⟨rfl, c, rfl⟩
  | halt c =>
    refine .of_whenHolds h fun hc ht => ?_
    cases ht
    exact hstart.halt ⟨c, rfl, hc⟩

/-! ## What every instruction leaves alone -/

/-- Settles O49: SR and GIE are in the footprint of the listed instructions only. -/
theorem srWriters : Obligations.SrWriters := by
  intro i s t h
  have hw := within_of_exec h
  exact ⟨fun hn => hw.sr (by simp [instrFootprint, hn]), hw.gie⟩

/-- Settles O52: the pc is in the footprint of the control transfers only. -/
theorem pcOnlyByControlTransfers : Obligations.PcOnlyByControlTransfers := by
  intro i s t h hn
  exact (within_of_exec h).pc (by simp [instrFootprint, hn])

/-- Settles O53: the registers of the footprint are those that may be written. -/
theorem registersWritten : Obligations.RegistersWritten :=
  fun _ _ _ h => (within_of_exec h).regs

/-! ## What every step leaves alone -/

/-- Settles O10: in each of the three ways a step goes on, its parts keep the invariant. -/
theorem stepKeepsInvariant : Obligations.StepKeepsInvariant := by
  intro s t hs hstep
  rcases step_cases hstep with ⟨_, rfl⟩ | ⟨_, l, _, henter⟩ | ⟨_, _, ir, u, i, hfetch, _, hexec⟩
  · exact hs
  · exact (within_of_enterInterrupt henter).inv hs
  · exact (within_of_exec hexec).inv ((within_of_fetch hfetch).inv hs)

/-- Settles O50: IIF survives a fetch, INT0 entry and every instruction but RETN. -/
theorem iifChangers : Obligations.IifChangers := by
  intro s t hstep hne
  rcases step_cases hstep with ⟨_, rfl⟩ | ⟨_, l, htaken, henter⟩ | ⟨_, hquiet, ir, u, i, hfetch, hdecode, hexec⟩
  · exact absurd rfl hne
  · rcases (within_of_enterInterrupt henter).iif with hsame | ⟨rfl, hclear⟩
    · exact absurd hsame hne
    · exact .inl ⟨htaken, hclear⟩
  · have hu : u.iif = s.iif := (within_of_fetch hfetch).iif.resolve_right id
    rcases (within_of_exec hexec).iif with hsame | ⟨hset, c, rfl⟩
    · exact absurd (hsame.trans hu) hne
    · exact .inr ⟨hquiet, hset, c, ir, u, hfetch, hdecode⟩

/-- Settles O51: neither an entry nor a fetch halts, and the fetch leaves the flags that a HALT tests alone. -/
theorem haltedSetOnlyByHalt : Obligations.HaltedSetOnlyByHalt := by
  intro s t hstep
  rcases step_cases hstep with ⟨hstopped, rfl⟩ | ⟨hrun, l, _, henter⟩ | ⟨hrun, _, ir, u, i, hfetch, hdecode, hexec⟩
  · exact ⟨id, fun hrun => by simp [hstopped] at hrun⟩
  · exact ⟨by simp [hrun], fun _ hhalt => ((within_of_enterInterrupt henter).halts hrun hhalt).elim⟩
  · refine ⟨by simp [hrun], fun _ hhalt => ?_⟩
    have hfetched := within_of_fetch hfetch
    have hrun' : u.halted = false := (hfetched.halted.resolve_right And.right).trans hrun
    obtain ⟨c, rfl, hc⟩ := (within_of_exec hexec).halts hrun' hhalt
    rw [Holds, hfetched.sr id] at hc
    exact ⟨c, ir, u, hfetch, hdecode, hc⟩

end Sys2Proof.Machine
end

section
/-! SUPPORT. Alignment as arithmetic (20_memory.md R54), and reads of every width inside a stored word (R52, R53,
R56). -/

namespace Sys2Proof.Machine

open Sys2Proof Host

/-! ## Alignment -/

/-- Dropping the low `n` bits of an address subtracts its remainder by `2 ^ n`. -/
theorem toNat_and_allOnes_shiftLeft (a : Word) (n : Nat) :
    (a &&& BitVec.allOnes 32 <<< n).toNat = a.toNat - a.toNat % 2 ^ n := by
  have hsplit := Nat.div_add_mod' a.toNat (2 ^ n)
  have hlt : a.toNat / 2 ^ n * 2 ^ n < 2 ^ 32 := by omega
  rw [← BitVec.shiftLeft_ushiftRight, BitVec.toNat_shiftLeft, BitVec.toNat_ushiftRight, Nat.shiftRight_eq_div_pow,
    Nat.shiftLeft_eq, Nat.mod_eq_of_lt hlt]
  omega

/-- The aligned address is the address less its remainder by the width of the access. -/
theorem toNat_align (a : Word) (w : Width) : (align a w).toNat = a.toNat - a.toNat % w.bytes := by
  cases w with
  | byte => simp [align, Width.bytes, Nat.mod_one]
  | half => exact toNat_and_allOnes_shiftLeft a 1
  | word => exact toNat_and_allOnes_shiftLeft a 2

/-- The test a fetch makes of the pc (20_memory.md R57) is that of a multiple of 4. -/
theorem and_three_eq_zero_iff (a : Word) : a &&& 3#32 = 0#32 ↔ a.toNat % 4 = 0 := by
  rw [← BitVec.toNat_inj, BitVec.toNat_and]
  exact iff_of_eq (congrArg (· = 0) (Nat.and_two_pow_sub_one_eq_mod a.toNat 2))

theorem align_word_of_and_three {a : Word} (h : a &&& 3#32 = 0#32) : align a .word = a := by
  have hmod := (and_three_eq_zero_iff a).mp h
  exact BitVec.eq_of_toNat_eq (by rw [toNat_align]; simp only [Width.bytes]; omega)

/-- Settles O35: the remainders are those by the widths of a word and of a halfword. -/
theorem alignmentDropsLowBits : Obligations.AlignmentDropsLowBits :=
  fun a => ⟨toNat_align a .word, toNat_align a .half, rfl⟩

/-- Under the default treatment a fetch at a pc whose low bits are not zero faults (D12). -/
theorem fetch_misaligned {s : State} (hmode : s.params.fetchMode = .fault) (hpc : s.pc &&& 3#32 ≠ 0#32) :
    fetch s = .error (.misalignedFetch s.pc) :=
  if_pos ⟨hmode, hpc⟩

/-- Settles O13: the boundary leaves the pc as it is, so the fetch that follows it faults. -/
theorem misalignedFetchFaults : Obligations.MisalignedFetchFaults := by
  intro s hrun hquiet hmode hpc
  have hlow : s.pc &&& 3#32 ≠ 0#32 := fun h => hpc ((and_three_eq_zero_iff s.pc).mp h)
  exact step_fetch_fault hrun hquiet (fetch_misaligned (s := s.passBoundary) hmode hlow)

/-! ## Reads inside a store -/

theorem byteOfWord_ushiftRight (v : Word) (j k : Nat) : byteOfWord (v >>> (8 * j)) k = byteOfWord v (j + k) := by
  unfold byteOfWord
  ext i hi
  simp only [BitVec.getElem_extractLsb', BitVec.getLsbD_ushiftRight]
  congr 1
  omega

/-- A load of bytes that a store wrote gives them from the value stored, whatever the two widths. -/
theorem Memory.load_store_inside (m : Memory) {a b : Word} (v : Word) {u w : Width} {j : Nat}
    (ha : a.toNat + u.bytes ≤ 2 ^ 32) (hb : b.toNat = a.toNat + j) (hj : j + w.bytes ≤ u.bytes) :
    (m.store a u v).load b w = .ok (lowBits w (v >>> (8 * j))) := by
  refine Memory.load_of_bytes _ b w _ (by omega) fun k hk => ?_
  rw [Memory.read_store m a u v ha, if_pos ⟨by omega, by omega⟩, byteOfWord_ushiftRight]
  congr 2
  omega

/-- An access at byte `k` of a stored word starts `k - k % n` bytes into it, where `n` is its width. -/
theorem Memory.load_align_store_word (m : Memory) (a v : Word) (ha : a.toNat % 4 = 0) {k : Nat} (hk : k < 4)
    (w : Width) :
    (m.store a .word v).load (align (a + BitVec.ofNat 32 k) w) w
      = .ok (lowBits w (v >>> (8 * (k - k % w.bytes)))) := by
  have hlt := a.isLt
  have hend : a.toNat + Width.word.bytes ≤ 2 ^ 32 := by simp only [Width.bytes]; omega
  have hstart : a.toNat + k - (a.toNat + k) % w.bytes = a.toNat + (k - k % w.bytes) := by
    cases w <;> simp only [Width.bytes] <;> omega
  have hinside : k - k % w.bytes + w.bytes ≤ Width.word.bytes := by
    cases w <;> simp only [Width.bytes] <;> omega
  exact m.load_store_inside v hend (by rw [toNat_align, toNat_add_byte a k (by omega), hstart]) hinside

/-- Settles O36: the three widths of a read at byte `k`, whose low bits of the shifted word are its slice at `k`. -/
theorem mixedWidthReads : Obligations.MixedWidthReads := by
  intro m a v ha k hk
  have hload := m.load_align_store_word a v ha hk
  have hbyte : 8 * (k - k % 1) = 8 * k := by omega
  have hhalf : 8 * (k - k % 2) = 16 * (k / 2) := by omega
  have hword : 8 * (k - k % 4) = 0 := by omega
  refine ⟨?_, ?_, ?_⟩
  · rw [hload .byte, Width.bytes, hbyte, lowBits, BitVec.setWidth_ushiftRight_eq_extractLsb]
  · rw [hload .half, Width.bytes, hhalf, lowBits, BitVec.setWidth_ushiftRight_eq_extractLsb]
  · rw [hload .word, Width.bytes, hword, lowBits, BitVec.ushiftRight_zero]

end Sys2Proof.Machine
end

section
/-! SUPPORT. Where an access at an unpopulated address stops each operation (20_memory.md R65, 60_exceptions.md R238,
R248). -/

namespace Sys2Proof.Machine

open Sys2Proof Sys2Proof.Claims Host

section
variable {s : State}

/-! ## The operations -/

theorem fetch_unmapped (ha : s.pc &&& 3#32 = 0#32 ∨ s.params.fetchMode = .mask) (hp : UnmappedAt s s.pc .word) :
    fetch s = .error (.unmappedAccess (align s.pc .word) .word .read) := by
  rw [fetch_eq ha, memRead_unmapped hp]

theorem loadOp_unmapped {r : Reg} {ea : Word} {w : Width} (hp : UnmappedAt s ea w) :
    loadOp r ea w s = .error (.unmappedAccess (align ea w) w .read) := by
  rw [loadOp, memRead_unmapped hp]

theorem storeOp_unmapped {r : Reg} {ea : Word} {w : Width} (hp : UnmappedAt s ea w) :
    storeOp r ea w s = .error (.unmappedAccess (align ea w) w .write) :=
  memWrite_unmapped hp

theorem callOp_unmapped {target : Word} (hp : UnmappedAt s (s.reg .r7 - 4#32) .word) :
    callOp target s = .error (.unmappedAccess (align (s.reg .r7 - 4#32) .word) .word .write) := by
  rw [callOp, pushWord_unmapped hp]

theorem popPc_unmapped (hp : UnmappedAt s (s.reg .r7) .word) :
    popPc s = .error (.unmappedAccess (align (s.reg .r7) .word) .word .read) := by
  rw [popPc, popWord_unmapped hp]

theorem leaveInterrupt_unmapped {l : Level} (hp : UnmappedAt s (s.reg .r7) .word) :
    leaveInterrupt s l = .error (.unmappedAccess (align (s.reg .r7) .word) .word .read) := by
  rw [leaveInterrupt, popPc_unmapped hp]

/-! ## Interrupt entry -/

/-- An entry of either level stops where its push does. -/
theorem enterInterrupt_push_fault {l : Level} {f : Fault} (h : pushWord (s.setEnable l false) s.pc = .error f) :
    enterInterrupt s l = .error f := by
  rw [enterInterrupt, h]

/-- After its push, an entry stops where the search for its handler does. -/
theorem enterInterrupt_handler_fault {l : Level} {t : State} {f : Fault}
    (hpush : pushWord (s.setEnable l false) s.pc = .ok t) (h : handlerAddress t l = .error f) :
    enterInterrupt s l = .error f := by
  rw [enterInterrupt, hpush]
  dsimp only
  rw [h]

/-- A push that touches no unpopulated address succeeds, and the map stays. -/
theorem pushWord_mapped {v : Word} (hp : ¬ UnmappedAt s (s.reg .r7 - 4#32) .word) :
    ∃ t, pushWord s v = .ok t ∧ t.params = s.params := by
  match hk : accessKind s.params.memMap (align (s.reg .r7 - 4#32) .word) .word with
  | none => exact absurd hk hp
  | some .io => exact ⟨_, pushWord_io hk, rfl⟩
  | some .plain => exact ⟨_, pushWord_plain hk, rfl⟩

theorem enterInterrupt_push_unmapped {l : Level} (hp : UnmappedAt s (s.reg .r7 - 4#32) .word) :
    enterInterrupt s l = .error (.unmappedAccess (align (s.reg .r7 - 4#32) .word) .word .write) := by
  have hreg := s.setEnable_reg l false .r7
  have h : UnmappedAt (s.setEnable l false) ((s.setEnable l false).reg .r7 - 4#32) .word := by
    rw [UnmappedAt, hreg, s.setEnable_params]
    exact hp
  rw [enterInterrupt_push_fault (pushWord_unmapped h), hreg]

theorem enterInterrupt_vector_unmapped (hp : ¬ UnmappedAt s (s.reg .r7 - 4#32) .word) (hv : UnmappedAt s 8#32 .word) :
    enterInterrupt s .int0 = .error (.unmappedAccess 8#32 .word .read) := by
  obtain ⟨t, hpush, hparams⟩ := pushWord_mapped (s := s.setEnable .int0 false) (v := s.pc) hp
  have hv' : UnmappedAt t 8#32 .word := by
    rw [UnmappedAt, hparams]
    exact hv
  exact enterInterrupt_handler_fault hpush (memRead_unmapped hv')

/-- A boundary that is not quiet takes one of the two interrupts. -/
theorem takenInterrupt_of_not_quiet (h : ¬ Quiet s) : ∃ l, takenInterrupt s = some l := by
  by_cases hnmi : s.sample.nmi = true ∧ s.iif = true
  · exact ⟨_, takenInterrupt_nmi hnmi.1 hnmi.2⟩
  · obtain ⟨hline, hgie⟩ : s.sample.int0 = true ∧ s.sr.gie = true := by
      by_contra hint0
      exact h ⟨hnmi, hint0⟩
    exact ⟨_, takenInterrupt_int0 hnmi hline hgie⟩

/-! ## The instructions -/

/-- A load is its access and no more when the access stops. -/
theorem finish_loadOp_unmapped {r : Reg} {ea : Word} {w : Width} (hp : UnmappedAt s ea w) :
    finish (loadOp r ea w s) = .fault (.unmappedAccess (align ea w) w .read) := by
  rw [loadOp_unmapped hp, finish]

theorem finish_storeOp_unmapped {r : Reg} {ea : Word} {w : Width} (hp : UnmappedAt s ea w) :
    finish (storeOp r ea w s) = .fault (.unmappedAccess (align ea w) w .write) := by
  rw [storeOp_unmapped hp, finish]

theorem unmappedFault_push {r : Reg} (hp : UnmappedAt s (s.reg .r7 - 4#32) .word) :
    UnmappedFault (.push r) s (s.reg .r7 - 4#32) .word .write := by
  show finish (pushWord (s.spend (stackDraws r)) (pushValue r s)) = _
  rw [pushWord_unmapped (s := s.spend (stackDraws r)) hp, finish, State.spend_reg]

theorem unmappedFault_pop {r : Reg} (hp : UnmappedAt s (s.reg .r7) .word) :
    UnmappedFault (.pop r) s (s.reg .r7) .word .read := by
  show execPop r s = _
  rw [execPop, popWord_unmapped hp]

/-- An instruction whose condition holds stops where its effect does. -/
theorem whenHolds_fault {i : Instr} {taken : Except Fault State} {f : Fault} (hc : Holds i.cond s)
    (h : taken = .error f) : whenHolds i s taken = .fault f := by
  rw [whenHolds_taken hc, h, finish]

end

/-- Settles O40: each access goes through `memRead` or `memWrite`, and nothing before it in its step or instruction
changes the address or the map. -/
theorem unmappedAccessesFault : Obligations.UnmappedAccessesFault := by
  intro s
  refine ⟨fun hrun hquiet hp => ⟨fun haligned => ?_, fun hmask => ?_⟩, ?_, fun r b i => ?_, fun hp => ?_,
    fun hp => ?_⟩
  · have hfetch := fetch_unmapped (s := s.passBoundary) (.inl haligned) hp
    rw [step_fetch_fault hrun hquiet hfetch, State.passBoundary_pc, align_word_of_and_three haligned]
  · exact step_fetch_fault hrun hquiet (fetch_unmapped (s := s.passBoundary) (.inr hmask) hp)
  · rintro ⟨hrun, hnmi, hline, hgie⟩ hpush hvector
    rw [step_taken hrun (takenInterrupt_int0 hnmi hline hgie),
      enterInterrupt_vector_unmapped (s := s.passBoundary) hpush hvector, finish]
  · and_intros <;> exact fun hp => ⟨finish_loadOp_unmapped hp, finish_storeOp_unmapped hp⟩
  · refine ⟨fun r => unmappedFault_push hp, fun c hc => ⟨fun i => ?_, fun r => ?_⟩, fun hrun hbusy => ?_⟩
    · exact whenHolds_fault (i := .callAddr c i) hc (callOp_unmapped hp)
    · exact whenHolds_fault (i := .callReg c r) hc (callOp_unmapped hp)
    · obtain ⟨l, htaken⟩ := takenInterrupt_of_not_quiet hbusy
      rw [step_taken hrun htaken, enterInterrupt_push_unmapped (s := s.passBoundary) hp, finish, State.passBoundary_reg]
  · refine ⟨fun r => unmappedFault_pop hp, fun c hc => ⟨?_, ?_, ?_⟩⟩
    · exact whenHolds_fault (i := .ret c) hc (popPc_unmapped hp)
    · exact whenHolds_fault (i := .reti c) hc (leaveInterrupt_unmapped hp)
    · exact whenHolds_fault (i := .retn c) hc (leaveInterrupt_unmapped hp)

end Sys2Proof.Machine
end

section
/-! SUPPORT. The bytes of memory and the record of device accesses along a run, with one rule for each shared operation.
An instruction makes at most one access, at its store target if it is a store (20_memory.md R53, R58, R65, R68). -/

namespace Sys2Proof.Machine

open Sys2Proof Host

/-- Every byte reads as before, but for those of an access at the target if there is one. -/
def SameOutside (target : Option (Word × Width)) (s t : State) : Prop :=
  (target = none → SameMemory s t) ∧ ∀ a w, target = some (a, w) → SameMemoryBut s t a w

/-- From `s` to `t` only the target's bytes of memory change, and at most `n` device accesses are recorded. -/
structure Accesses (target : Option (Word × Width)) (n : Nat) (s t : State) : Prop where
  memory : SameOutside target s t
  record : ∃ e, t.io = s.io ++ e ∧ e.length ≤ n

theorem sameOutside_of_sameMemory {s t : State} (target : Option (Word × Width)) (h : SameMemory s t) :
    SameOutside target s t :=
  ⟨fun _ => h, fun _ _ _ x _ => h x⟩

/-! ## The rules: each extends a run by one operation -/

section
variable {target : Option (Word × Width)} {n : Nat} {s t u : State}

theorem Accesses.refl (target : Option (Word × Width)) (n : Nat) (s : State) : Accesses target n s s :=
  ⟨sameOutside_of_sameMemory target fun _ => rfl, [], (List.append_nil _).symm, Nat.zero_le n⟩

/-- Updates of the other fields are no accesses. -/
theorem Accesses.congr (h : Accesses target n s t) (hmem : u.mem = t.mem) (hio : u.io = t.io) :
    Accesses target n s u := by
  obtain ⟨⟨hsame, hbut⟩, hrecord⟩ := h
  refine ⟨⟨fun ht a => ?_, fun a w ht x hx => ?_⟩, hio ▸ hrecord⟩
  · rw [hmem, hsame ht a]
  · rw [hmem, hbut a w ht x hx]

theorem Accesses.mono (h : Accesses target n s t) {m : Nat} (hm : n ≤ m) : Accesses target m s t := by
  obtain ⟨hmemory, e, he, hlen⟩ := h
  exact ⟨hmemory, e, he, hlen.trans hm⟩

/-- One more access makes the record at most one longer. -/
theorem Accesses.record_append (h : Accesses target n s t) (e : Config.IoEvent) (hio : u.io = t.io ++ [e]) :
    ∃ es, u.io = s.io ++ es ∧ es.length ≤ n + 1 := by
  obtain ⟨es, hes, hlen⟩ := h.record
  exact ⟨es ++ [e], by rw [hio, hes, List.append_assoc], by simpa using hlen⟩

theorem Accesses.memRead (h : Accesses target n s t) {a v : Word} {w : Width} (hr : memRead t a w = .ok (v, u)) :
    Accesses target (n + 1) s u := by
  rcases memRead_cases hr with ⟨_, _, rfl⟩ | ⟨_, _, rfl⟩
  · exact ⟨h.memory, h.record_append _ rfl⟩
  · exact h.mono (Nat.le_succ n)

theorem Accesses.memWrite (h : Accesses none n s t) {a v : Word} {w : Width} (hw : memWrite t a w v = .ok u) :
    Accesses (some (a, w)) (n + 1) s u := by
  have hsame : SameMemory s t := h.memory.1 rfl
  rcases memWrite_cases hw with ⟨_, rfl⟩ | ⟨_, rfl⟩
  · exact ⟨sameOutside_of_sameMemory _ hsame, h.record_append _ rfl⟩
  · refine ⟨⟨nofun, ?_⟩, (h.mono (Nat.le_succ n)).record⟩
    rintro _ _ ⟨⟩ x hx
    exact (sameMemoryBut_store t a v w x hx).trans (hsame x)

theorem Accesses.loadOp (h : Accesses target n s t) {d : Reg} {a : Word} {w : Width} (hl : loadOp d a w t = .ok u) :
    Accesses target (n + 1) s u := by
  unfold Machine.loadOp at hl
  split at hl
  · cases hl
  · next hr =>
    cases hl
    exact (h.memRead hr).congr rfl rfl

theorem Accesses.pushWord (h : Accesses none n s t) {v : Word} (hp : pushWord t v = .ok u) :
    Accesses (some (t.reg .r7 - 4#32, .word)) (n + 1) s u :=
  (h.congr (u := t.setReg .r7 (t.reg .r7 - 4#32)) rfl rfl).memWrite (pushWord_cases hp)

theorem Accesses.callOp (h : Accesses none n s t) {v : Word} (hc : callOp v t = .ok u) :
    Accesses (some (t.reg .r7 - 4#32, .word)) (n + 1) s u := by
  unfold Machine.callOp at hc
  split at hc
  · cases hc
  · next hp =>
    cases hc
    exact (h.pushWord hp).congr rfl rfl

theorem Accesses.popWord (h : Accesses target n s t) {v : Word} (hp : popWord t = .ok (v, u)) :
    Accesses target (n + 1) s u := by
  obtain ⟨_, hr, rfl⟩ := popWord_cases hp
  exact (h.memRead hr).congr rfl rfl

theorem Accesses.popPc (h : Accesses target n s t) (hp : popPc t = .ok u) : Accesses target (n + 1) s u := by
  obtain ⟨_, _, hw, rfl⟩ := popPc_cases hp
  exact (h.popWord hw).congr rfl rfl

theorem Accesses.leaveInterrupt (h : Accesses target n s t) {l : Level} (hl : leaveInterrupt t l = .ok u) :
    Accesses target (n + 1) s u := by
  obtain ⟨v, hp, rfl⟩ := leaveInterrupt_cases hl
  exact (h.popPc hp).congr (v.setEnable_mem l true) (v.setEnable_io l true)

/-- An instruction whose condition fails makes no access. -/
theorem Accesses.of_whenHolds {i : Instr} {taken : Except Fault State} (h : whenHolds i s taken = .next t)
    (htaken : Holds i.cond s → taken = .ok t → Accesses target n s t) : Accesses target n s t := by
  rcases whenHolds_cases h with ⟨_, rfl⟩ | ⟨hc, ht⟩
  · exact .refl target n t
  · exact htaken hc ht

/-- An instruction that always completes and leaves memory and the record as they are makes no access. -/
theorem Accesses.of_next (h : (Outcome.next u : Outcome State Fault Refusal) = .next t) (hmem : u.mem = s.mem)
    (hio : u.io = s.io) : Accesses target n s t := by
  cases h
  exact (Accesses.refl target n s).congr hmem hio

end

/-! ## The parts of a step -/

/-- Every instruction that completes makes at most one access, and stores at its target only. -/
theorem accesses_of_exec {i : Instr} {s t : State} (h : exec i s = .next t) : Accesses (storeTarget i s) 1 s t := by
  have hstart (target : Option (Word × Width)) := Accesses.refl target 0 s
  cases i with
  | addR | addI | adcR | adcI | subR | subI | cmpR | cmpI | andR | andI | orR | orI | xorR | xorI
  | shlR | shlI | shrR | shrI | ashrR | ashrI | rotlR | rotlI | rotrR | rotrI
  | moveR | moveI | moveToSrR | moveToSrI | moveFromSr => exact .of_next h rfl rfl
  | loadBase | loadAbs | loadhBase | loadhAbs | loadbBase | loadbAbs => exact (hstart _).loadOp (finish_next.mp h)
  | storeBase | storeAbs | storehBase | storehAbs | storebBase | storebAbs =>
    exact (hstart none).memWrite (finish_next.mp h)
  | push r =>
    exact ((hstart none).congr (u := s.spend (stackDraws r)) rfl rfl).pushWord (finish_next.mp h)
  | pop r =>
    unfold exec execPop at h
    dsimp only at h
    split at h
    · cases h
    · next hp =>
      cases h
      exact ((hstart _).popWord hp).congr rfl rfl
  | jpAddr | jpReg | jr | halt => exact .of_whenHolds h fun _ ht => .of_next (congrArg finish ht) rfl rfl
  | callAddr c _ | callReg c _ =>
    refine .of_whenHolds h fun hc ht => ?_
    have htaken : condHolds c s.sr = some true := hc
    rw [storeTarget, if_pos htaken]
    exact (hstart none).callOp ht
  | ret => exact .of_whenHolds h fun _ ht => (hstart _).popPc ht
  | reti | retn => exact .of_whenHolds h fun _ ht => (hstart _).leaveInterrupt ht

theorem accesses_of_fetch {s t : State} {ir : Word} (h : fetch s = .ok (ir, t)) : Accesses none 1 s t := by
  obtain ⟨_, _, hr, rfl⟩ := fetch_cases h
  exact ((Accesses.refl none 0 s).memRead hr).congr rfl rfl

/-- Taking an interrupt writes the stack and, for INT0, reads the vector word (60_exceptions.md R238, R239). -/
theorem accesses_of_enterInterrupt {s t : State} {l : Level} (h : enterInterrupt s l = .ok t) :
    Accesses (some (s.reg .r7 - 4#32, .word)) 2 s t := by
  obtain ⟨u, v, x, hpush, hhandler, rfl⟩ := enterInterrupt_cases h
  have hstart := (Accesses.refl none 0 s).congr (s.setEnable_mem l false) (s.setEnable_io l false)
  have hpushed := hstart.pushWord hpush
  rw [State.setEnable_reg] at hpushed
  cases l with
  | int0 => exact (hpushed.memRead hhandler).congr rfl rfl
  | nmi =>
    cases hhandler
    exact (hpushed.mono (Nat.le_succ 1)).congr rfl rfl

/-- Settles O54: an access changes memory at its target only, and the target of an instruction is its store target. -/
theorem memoryWritten : Obligations.MemoryWritten :=
  fun _ _ _ h => (accesses_of_exec h).memory

/-- Settles O56: an entry makes at most two accesses, and a fetch and an instruction at most one each. -/
theorem deviceRecordOnlyGrows : Obligations.DeviceRecordOnlyGrows := by
  intro s t hstep
  rcases step_cases hstep with ⟨_, rfl⟩ | ⟨_, l, _, henter⟩ | ⟨_, _, ir, u, i, hfetch, _, hexec⟩
  · exact ⟨⟨[], (List.append_nil _).symm, Nat.zero_le 2⟩, rfl⟩
  · exact ⟨(accesses_of_enterInterrupt henter).record, (within_of_enterInterrupt henter).params⟩
  · obtain ⟨e, hu, he⟩ := (accesses_of_fetch hfetch).record
    obtain ⟨f, ht, hf⟩ := (accesses_of_exec hexec).record
    refine ⟨⟨e ++ f, ?_, ?_⟩, (within_of_exec hexec).params.trans (within_of_fetch hfetch).params⟩
    · rw [ht, hu, List.append_assoc, State.passBoundary_io]
    · rw [List.length_append]
      omega

end Sys2Proof.Machine
end

section
/-! SUPPORT. A word is the concatenation of its fields (30_encoding.md R81 to R86), and what the bits fixed by a table row
say of them. -/

namespace Sys2Proof

/-! ## Codes and their names -/

@[simp] theorem Reg.bits_ofBits : ∀ b : BitVec 3, (Reg.ofBits b).bits = b := by decide

/-! The register numbers that a form fixes or that select a form of MOVE (30_encoding.md R90, R94). -/

@[simp] theorem Reg.ofBits_zero : Reg.ofBits 0#3 = .r0 := rfl

@[simp] theorem Reg.ofBits_one : Reg.ofBits 1#3 = .r1 := rfl

@[simp] theorem Reg.ofBits_two : Reg.ofBits 2#3 = .r2 := rfl

@[simp] theorem Cond.bits_ofBits : ∀ b : BitVec 4, (Cond.ofBits b).bits = b := by decide

/-- A field names the reserved condition when it is 1111 (30_encoding.md R92). -/
theorem condField_eq_reserved (w : Word) : condField w = .reserved ↔ w.extractLsb' 22 4 = 0b1111#4 := by
  have hcode : ∀ b : BitVec 4, Cond.ofBits b = .reserved ↔ b = 0b1111#4 := by decide
  exact hcode _

theorem modeBit_eq_one {w : Word} (h : modeBit w ≠ 0#1) : modeBit w = 1#1 := by
  have hbit : ∀ b : BitVec 1, b ≠ 0#1 → b = 1#1 := by decide
  exact hbit _ h

/-! ## A word is its fields -/

/-- Two neighbouring slices are one slice. -/
theorem slice_append_slice (w : Word) (k m n : Nat) :
    w.extractLsb' (k + n) m ++ w.extractLsb' k n = w.extractLsb' k (m + n) := by
  apply BitVec.eq_of_getLsbD_eq
  intro i hi
  simp only [BitVec.getLsbD_append, BitVec.getLsbD_extractLsb']
  split
  · next hlow => simp only [hlow, hi]
  · next hhigh =>
    have hm : i - n < m := by omega
    have hk : k + n + (i - n) = k + i := by omega
    simp only [hm, hi, hk]

theorem packR_fields {w : Word} (hmode : modeBit w = 0#1) (hlow : low17 w = 0#17) :
    packR (opcodeField w) (destField w).bits (src1Field w).bits (src2Field w).bits = w := by
  rw [packR, ← hmode, ← hlow]
  simp only [opcodeField, modeBit, destField, src1Field, src2Field, low17, Reg.bits_ofBits]
  rw [slice_append_slice w 26 5 1, slice_append_slice w 23 _ 3, slice_append_slice w 20 _ 3,
    slice_append_slice w 17 _ 3, slice_append_slice w 0 _ 17]
  exact slice_all w

theorem packI_fields (w : Word) :
    packI (opcodeField w) (modeBit w) (destField w).bits (src1Field w).bits (immField w) = w := by
  simp only [packI, opcodeField, modeBit, destField, src1Field, immField, Reg.bits_ofBits]
  rw [slice_append_slice w 26 5 1, slice_append_slice w 23 _ 3, slice_append_slice w 20 _ 3,
    slice_append_slice w 0 _ 20]
  exact slice_all w

theorem packC_fields {w : Word} (hmode : modeBit w = 0#1) (hgap : gapField w = 0#2) :
    packC (opcodeField w) (condField w) (immField w) = w := by
  rw [packC, ← hmode, ← hgap]
  simp only [opcodeField, modeBit, condField, gapField, immField, Cond.bits_ofBits]
  rw [slice_append_slice w 26 5 1, slice_append_slice w 22 _ 4, slice_append_slice w 20 _ 2,
    slice_append_slice w 0 _ 20]
  exact slice_all w

theorem packCReg_fields {w : Word} (hmode : modeBit w = 1#1) (hgap : gapField w = 0#2) (hlow : low17 w = 0#17) :
    packCReg (opcodeField w) (condField w) (src2Field w) = w := by
  rw [packCReg, ← hmode, ← hgap, ← hlow]
  simp only [opcodeField, modeBit, condField, gapField, src2Field, low17, Cond.bits_ofBits, Reg.bits_ofBits]
  rw [slice_append_slice w 26 5 1, slice_append_slice w 22 _ 4, slice_append_slice w 20 _ 2,
    slice_append_slice w 17 _ 3, slice_append_slice w 0 _ 17]
  exact slice_all w

/-! The same, each field at a value it is known to have. -/

section
variable {w : Word} {n : BitVec 5}

theorem packR_of_fixed {d a b : BitVec 3} (hn : n = opcodeField w) (hmode : modeBit w = 0#1) (hlow : low17 w = 0#17)
    (hd : (destField w).bits = d) (ha : (src1Field w).bits = a) (hb : (src2Field w).bits = b) : packR n d a b = w := by
  rw [hn, ← hd, ← ha, ← hb, packR_fields hmode hlow]

theorem packI_of_fixed {mode : BitVec 1} {d a : BitVec 3} {i : Imm20} (hn : n = opcodeField w) (hmode : modeBit w = mode)
    (hd : (destField w).bits = d) (ha : (src1Field w).bits = a) (hi : immField w = i) : packI n mode d a i = w := by
  rw [hn, ← hmode, ← hd, ← ha, ← hi, packI_fields]

theorem packC_of_fixed {i : Imm20} (hn : n = opcodeField w) (hmode : modeBit w = 0#1) (hgap : gapField w = 0#2)
    (hi : immField w = i) : packC n (condField w) i = w := by
  rw [hn, ← hi, packC_fields hmode hgap]

end

/-! ## What fixed bits say of a field -/

theorem slice_slice (w : Word) (n k l : Nat) (h : k + l ≤ n) :
    (w.extractLsb' 0 n).extractLsb' k l = w.extractLsb' k l := by
  ext i hi
  simp only [BitVec.getElem_extractLsb', BitVec.getLsbD_extractLsb', Nat.zero_add]
  rw [decide_eq_true (by omega), Bool.true_and]

/-- Words with the same low 27 bits have the same slices of them. -/
theorem slice_of_low27 {w v : Word} (h : w.extractLsb' 0 27 = v.extractLsb' 0 27) (k l : Nat) (hkl : k + l ≤ 27) :
    w.extractLsb' k l = v.extractLsb' k l := by
  rw [← slice_slice w 27 k l hkl, h, slice_slice v 27 k l hkl]

/-- Where bits 19:0 are zero, so is every field inside them. -/
theorem low17_src2Field_of_immField {w : Word} (h : immField w = 0#20) : low17 w = 0#17 ∧ src2Field w = .r0 := by
  constructor
  · rw [low17, ← slice_slice w 20 0 17 (by omega)]
    exact congrArg (BitVec.extractLsb' 0 17) h
  · rw [src2Field, ← slice_slice w 20 17 3 (by omega)]
    exact congrArg (fun b => Reg.ofBits (BitVec.extractLsb' 17 3 b)) h

/-- A field that a mask keeps whole is the pattern's. -/
theorem slice_of_mask {w mask pattern : Word} (h : w &&& mask = pattern) (k l : Nat)
    (hmask : mask.extractLsb' k l = BitVec.allOnes l) : w.extractLsb' k l = pattern.extractLsb' k l := by
  rw [← h, BitVec.extractLsb'_and, hmask, BitVec.and_allOnes]

end Sys2Proof
end

section
/-! SUPPORT. What the decoder can answer, arm by arm (30_encoding.md R94 to R97): that a word is reserved, or the
instruction whose word it is. -/

namespace Sys2Proof

open Sys2Proof.Config (OpcodeMap)

/-- What an arm of the decoder can answer for a word: that it is reserved, or a well-formed instruction whose word it is. -/
inductive ArmAnswer (m : OpcodeMap) (w : Word) : Except DecodeError Instr → Prop
  | reserved : ArmAnswer m w (.error .reservedEncoding)
  | decoded {i : Instr} (hwf : i.WellFormed) (henc : encode m i = w) : ArmAnswer m w (.ok i)

section
variable {m : OpcodeMap} {w : Word} {n : BitVec 5}

theorem ArmAnswer.of_ok {i : Instr} (h : ArmAnswer m w (.ok i)) : i.WellFormed ∧ encode m i = w := by
  cases h with
  | decoded hwf henc => exact ⟨hwf, henc⟩

theorem ArmAnswer.ne_illegal {e : Except DecodeError Instr} (h : ArmAnswer m w e) : e ≠ .error .illegalInstruction := by
  cases h <;> nofun

/-- An instruction that carries no condition and whose word is `w` is an answer. -/
theorem ArmAnswer.unconditional {i : Instr} {v : Word} (h : i.cond = .always ∧ encode m i = v) (hv : v = w) :
    ArmAnswer m w (.ok i) :=
  .decoded (by simp [Instr.WellFormed, h.1]) (h.2.trans hv)

theorem decodeAlu_answer {f : Reg → Reg → Reg → Instr} {g : Reg → Reg → Imm20 → Instr} (hn : n = opcodeField w)
    (hf : ∀ d a b, (f d a b).cond = .always ∧ encode m (f d a b) = packR n d.bits a.bits b.bits)
    (hg : ∀ d a i, (g d a i).cond = .always ∧ encode m (g d a i) = packI n 1#1 d.bits a.bits i) :
    ArmAnswer m w (decodeAlu f g w) := by
  unfold decodeAlu
  split_ifs with hmode hlow
  · exact .unconditional (hf ..) (packR_of_fixed hn hmode hlow rfl rfl rfl)
  · exact .reserved
  · exact .unconditional (hg ..) (packI_of_fixed hn (modeBit_eq_one hmode) rfl rfl rfl)

theorem decodeCmp_answer (hn : m.code .cmp = opcodeField w) : ArmAnswer m w (decodeCmp w) := by
  unfold decodeCmp decodeAlu
  split_ifs with hdest hmode hlow
  · exact .decoded nofun (packR_of_fixed hn hmode hlow (congrArg Reg.bits hdest) rfl rfl)
  · exact .reserved
  · exact .decoded nofun (packI_of_fixed hn (modeBit_eq_one hmode) (congrArg Reg.bits hdest) rfl rfl)
  · exact .reserved

/-- The selector of MOVE is a value of the src1 field, so each form is a word of format A with that field fixed (R90). -/
theorem decodeMove_answer (hn : m.code .move = opcodeField w) : ArmAnswer m w (decodeMove w) := by
  unfold decodeMove
  split
  · exact .reserved
  next hbad =>
  have hlow : modeBit w = 0#1 → low17 w = 0#17 := by simpa using hbad
  cases hsel : src1Field w
  case r0 =>
    have ha := congrArg Reg.bits hsel
    dsimp only
    split_ifs with hmode
    · exact .decoded nofun (packR_of_fixed hn hmode (hlow hmode) rfl ha rfl)
    · exact .decoded nofun (packI_of_fixed hn (modeBit_eq_one hmode) rfl ha rfl)
  case r1 =>
    have ha := congrArg Reg.bits hsel
    dsimp only
    split_ifs with hdest hmode
    · exact .decoded nofun (packR_of_fixed hn hmode (hlow hmode) (congrArg Reg.bits hdest) ha rfl)
    · exact .decoded nofun (packI_of_fixed hn (modeBit_eq_one hmode) (congrArg Reg.bits hdest) ha rfl)
    · exact .reserved
  case r2 =>
    have ha := congrArg Reg.bits hsel
    dsimp only
    split_ifs with hfixed
    · obtain ⟨hmode, himm⟩ := hfixed
      obtain ⟨hlow, hsrc2⟩ := low17_src2Field_of_immField himm
      exact .decoded nofun (packR_of_fixed hn hmode hlow rfl ha (congrArg Reg.bits hsrc2))
    · exact .reserved
  all_goals exact .reserved

theorem decodeMem_answer {f : Reg → Reg → Imm20 → Instr} {g : Reg → Imm20 → Instr} (hn : n = opcodeField w)
    (hf : ∀ r b i, (f r b i).cond = .always ∧ encode m (f r b i) = packI n 0#1 r.bits b.bits i)
    (hg : ∀ r i, (g r i).cond = .always ∧ encode m (g r i) = packI n 1#1 r.bits 0#3 i) :
    ArmAnswer m w (decodeMem f g w) := by
  unfold decodeMem
  split_ifs with hmode hbase
  · exact .unconditional (hf ..) (packI_of_fixed hn hmode rfl rfl rfl)
  · exact .unconditional (hg ..) (packI_of_fixed hn (modeBit_eq_one hmode) rfl (congrArg Reg.bits hbase) rfl)
  · exact .reserved

theorem decodeStack_answer {f : Reg → Instr} (hn : n = opcodeField w)
    (hf : ∀ r, (f r).cond = .always ∧ encode m (f r) = packI n 0#1 r.bits 0#3 0#20) :
    ArmAnswer m w (decodeStack f w) := by
  unfold decodeStack
  split_ifs with hfixed
  · obtain ⟨hmode, hbase, himm⟩ := hfixed
    exact .unconditional (hf _) (packI_of_fixed hn hmode rfl (congrArg Reg.bits hbase) himm)
  · exact .reserved

theorem decodeJump_answer {f : Cond → Imm20 → Instr} {g : Cond → Reg → Instr} (hn : n = opcodeField w)
    (hf : ∀ c i, (f c i).cond = c ∧ encode m (f c i) = packC n c i)
    (hg : ∀ c r, (g c r).cond = c ∧ encode m (g c r) = packCReg n c r) :
    ArmAnswer m w (decodeJump f g w) := by
  unfold decodeJump
  split_ifs with hbad hmode hlow
  · exact .reserved
  all_goals
    push Not at hbad
    obtain ⟨hgap, hcond⟩ := hbad
  · exact .decoded (by rwa [Instr.WellFormed, (hf ..).1]) ((hf ..).2.trans (packC_of_fixed hn hmode hgap rfl))
  · refine .decoded (by rwa [Instr.WellFormed, (hg ..).1]) ((hg ..).2.trans ?_)
    rw [hn, packCReg_fields (modeBit_eq_one hmode) hgap hlow]
  · exact .reserved

theorem decodeJr_answer (hn : m.code .jr = opcodeField w) : ArmAnswer m w (decodeJr w) := by
  unfold decodeJr
  split_ifs with hbad
  · exact .reserved
  · push Not at hbad
    obtain ⟨hmode, hgap, hcond⟩ := hbad
    exact .decoded hcond (packC_of_fixed hn hmode hgap rfl)

theorem decodeRet_answer (hn : m.code .ret = opcodeField w) : ArmAnswer m w (decodeRet w) := by
  unfold decodeRet
  split_ifs with hbad hret hreti hretn
  · exact .reserved
  all_goals
    push Not at hbad
    obtain ⟨hmode, hgap, hcond⟩ := hbad
  · exact .decoded hcond (packC_of_fixed hn hmode hgap hret)
  · exact .decoded hcond (packC_of_fixed hn hmode hgap hreti)
  · exact .decoded hcond (packC_of_fixed hn hmode hgap hretn)
  · exact .reserved

theorem decodeHalt_answer (hn : m.code .halt = opcodeField w) : ArmAnswer m w (decodeHalt w) := by
  unfold decodeHalt
  split_ifs with hbad
  · exact .reserved
  · push Not at hbad
    obtain ⟨hmode, hgap, hcond, himm⟩ := hbad
    exact .decoded hcond (packC_of_fixed hn hmode hgap himm)

/-- A word whose opcode is given to no operation is illegal (30_encoding.md R89). -/
theorem decode_unassigned (h : opOf m (opcodeField w) = none) : decode m w = .error .illegalInstruction := by
  rw [decode, h]

/-- Every word whose opcode is an operation's is reserved or the word of what it decodes to. -/
theorem decode_answer {op : Op} (h : opOf m (opcodeField w) = some op) : ArmAnswer m w (decode m w) := by
  have hn : m.code op = opcodeField w := code_of_opOf h
  rw [decode, h]
  cases op with
  | or | and | xor | add | adc | sub | rotl | rotr | shl | shr | ashr =>
    exact decodeAlu_answer hn (fun _ _ _ => ⟨rfl, rfl⟩) (fun _ _ _ => ⟨rfl, rfl⟩)
  | cmp => exact decodeCmp_answer hn
  | move => exact decodeMove_answer hn
  | loadb | storeb | loadh | storeh | load | store =>
    exact decodeMem_answer hn (fun _ _ _ => ⟨rfl, rfl⟩) (fun _ _ => ⟨rfl, rfl⟩)
  | pop | push => exact decodeStack_answer hn (fun _ => ⟨rfl, rfl⟩)
  | jp | call => exact decodeJump_answer hn (fun _ _ => ⟨rfl, rfl⟩) (fun _ _ => ⟨rfl, rfl⟩)
  | jr => exact decodeJr_answer hn
  | ret => exact decodeRet_answer hn
  | halt => exact decodeHalt_answer hn

theorem decode_eq_illegal : decode m w = .error .illegalInstruction ↔ opOf m (opcodeField w) = none := by
  cases h : opOf m (opcodeField w) with
  | none => simp [decode_unassigned h]
  | some op => simp [(decode_answer h).ne_illegal]

end

/-- Settles O2: only an assigned opcode decodes, and its arm answers with the word's own instruction. -/
theorem encodeOfDecode : Obligations.EncodeOfDecode := by
  intro m w i hdecode
  cases h : opOf m (opcodeField w) with
  | none => exact absurd (hdecode.symm.trans (decode_unassigned h)) nofun
  | some op => exact (hdecode ▸ decode_answer h).of_ok

/-! ## The accepting case of each form -/

section
variable {w : Word}

section
variable {f : Reg → Reg → Reg → Instr} {g : Reg → Reg → Imm20 → Instr}

theorem decodeAlu_register (hmode : modeBit w = 0#1) (hlow : low17 w = 0#17) :
    decodeAlu f g w = .ok (f (destField w) (src1Field w) (src2Field w)) := by
  simp [decodeAlu, hmode, hlow]

theorem decodeAlu_immediate (hmode : modeBit w = 1#1) :
    decodeAlu f g w = .ok (g (destField w) (src1Field w) (immField w)) := by
  simp [decodeAlu, hmode]

end

theorem decodeCmp_register (hdest : destField w = .r0) (hmode : modeBit w = 0#1) (hlow : low17 w = 0#17) :
    decodeCmp w = .ok (.cmpR (src1Field w) (src2Field w)) := by
  rw [decodeCmp, if_pos hdest, decodeAlu_register hmode hlow]

theorem decodeCmp_immediate (hdest : destField w = .r0) (hmode : modeBit w = 1#1) :
    decodeCmp w = .ok (.cmpI (src1Field w) (immField w)) := by
  rw [decodeCmp, if_pos hdest, decodeAlu_immediate hmode]

theorem decodeMove_register (hsel : src1Field w = .r0) (hmode : modeBit w = 0#1) (hlow : low17 w = 0#17) :
    decodeMove w = .ok (.moveR (destField w) (src2Field w)) := by
  simp [decodeMove, hsel, hmode, hlow]

theorem decodeMove_immediate (hsel : src1Field w = .r0) (hmode : modeBit w = 1#1) :
    decodeMove w = .ok (.moveI (destField w) (immField w)) := by
  simp [decodeMove, hsel, hmode]

theorem decodeMove_registerToSr (hsel : src1Field w = .r1) (hdest : destField w = .r0) (hmode : modeBit w = 0#1)
    (hlow : low17 w = 0#17) : decodeMove w = .ok (.moveToSrR (src2Field w)) := by
  simp [decodeMove, hsel, hdest, hmode, hlow]

theorem decodeMove_immediateToSr (hsel : src1Field w = .r1) (hdest : destField w = .r0) (hmode : modeBit w = 1#1) :
    decodeMove w = .ok (.moveToSrI (immField w)) := by
  simp [decodeMove, hsel, hdest, hmode]

theorem decodeMove_fromSr (hsel : src1Field w = .r2) (hmode : modeBit w = 0#1) (himm : immField w = 0#20) :
    decodeMove w = .ok (.moveFromSr (destField w)) := by
  simp [decodeMove, hsel, hmode, himm, (low17_src2Field_of_immField himm).1]

section
variable {f : Reg → Reg → Imm20 → Instr} {g : Reg → Imm20 → Instr}

theorem decodeMem_base (hmode : modeBit w = 0#1) :
    decodeMem f g w = .ok (f (destField w) (src1Field w) (immField w)) :=
  if_pos hmode

theorem decodeMem_absolute (hmode : modeBit w = 1#1) (hbase : src1Field w = .r0) :
    decodeMem f g w = .ok (g (destField w) (immField w)) := by
  simp [decodeMem, hmode, hbase]

end

theorem decodeStack_ok {f : Reg → Instr} (hmode : modeBit w = 0#1) (hbase : src1Field w = .r0) (himm : immField w = 0#20) :
    decodeStack f w = .ok (f (destField w)) :=
  if_pos ⟨hmode, hbase, himm⟩

section
variable {f : Cond → Imm20 → Instr} {g : Cond → Reg → Instr}

theorem decodeJump_address (hgap : gapField w = 0#2) (hcond : condField w ≠ .reserved) (hmode : modeBit w = 0#1) :
    decodeJump f g w = .ok (f (condField w) (immField w)) := by
  simp [decodeJump, hgap, hcond, hmode]

theorem decodeJump_register (hgap : gapField w = 0#2) (hcond : condField w ≠ .reserved) (hmode : modeBit w = 1#1)
    (hlow : low17 w = 0#17) : decodeJump f g w = .ok (g (condField w) (src2Field w)) := by
  simp [decodeJump, hgap, hcond, hmode, hlow]

end

theorem decodeJr_ok (hmode : modeBit w = 0#1) (hgap : gapField w = 0#2) (hcond : condField w ≠ .reserved) :
    decodeJr w = .ok (.jr (condField w) (immField w)) := by
  simp [decodeJr, hmode, hgap, hcond]

theorem decodeRet_ret (hmode : modeBit w = 0#1) (hgap : gapField w = 0#2) (hcond : condField w ≠ .reserved)
    (himm : immField w = 0#20) : decodeRet w = .ok (.ret (condField w)) := by
  simp [decodeRet, hmode, hgap, hcond, himm]

theorem decodeRet_reti (hmode : modeBit w = 0#1) (hgap : gapField w = 0#2) (hcond : condField w ≠ .reserved)
    (himm : immField w = 1#20) : decodeRet w = .ok (.reti (condField w)) := by
  simp [decodeRet, hmode, hgap, hcond, himm]

theorem decodeRet_retn (hmode : modeBit w = 0#1) (hgap : gapField w = 0#2) (hcond : condField w ≠ .reserved)
    (himm : immField w = 3#20) : decodeRet w = .ok (.retn (condField w)) := by
  simp [decodeRet, hmode, hgap, hcond, himm]

theorem decodeHalt_ok (hmode : modeBit w = 0#1) (hgap : gapField w = 0#2) (hcond : condField w ≠ .reserved)
    (himm : immField w = 0#20) : decodeHalt w = .ok (.halt (condField w)) := by
  simp [decodeHalt, hmode, hgap, hcond, himm]

end

/-! ## Every instruction is read back -/

theorem decode_encode {m : OpcodeMap} (hm : m.Distinct) {i : Instr} (hwf : i.WellFormed) :
    decode m (encode m i) = .ok i := by
  have hop := opOf_code hm
  cases i with
  | orR | andR | xorR | addR | adcR | subR | rotlR | rotrR | shlR | shrR | ashrR =>
    simp [encode, decode, hop, decodeAlu_register]
  | orI | andI | xorI | addI | adcI | subI | rotlI | rotrI | shlI | shrI | ashrI =>
    simp [encode, decode, hop, decodeAlu_immediate]
  | cmpR => simp [encode, decode, hop, decodeCmp_register]
  | cmpI => simp [encode, decode, hop, decodeCmp_immediate]
  | moveR => simp [encode, decode, hop, decodeMove_register]
  | moveI => simp [encode, decode, hop, decodeMove_immediate]
  | moveToSrR => simp [encode, decode, hop, decodeMove_registerToSr]
  | moveToSrI => simp [encode, decode, hop, decodeMove_immediateToSr]
  | moveFromSr => simp [encode, decode, hop, decodeMove_fromSr]
  | loadbBase | storebBase | loadhBase | storehBase | loadBase | storeBase =>
    simp [encode, decode, hop, decodeMem_base]
  | loadbAbs | storebAbs | loadhAbs | storehAbs | loadAbs | storeAbs =>
    simp [encode, decode, hop, decodeMem_absolute]
  | pop | push => simp [encode, decode, hop, decodeStack_ok]
  | jpAddr c | callAddr c => simp [encode, decode, hop, decodeJump_address, show c ≠ .reserved from hwf]
  | jpReg c | callReg c => simp [encode, decode, hop, decodeJump_register, show c ≠ .reserved from hwf]
  | jr c => simp [encode, decode, hop, decodeJr_ok, show c ≠ .reserved from hwf]
  | ret c => simp [encode, decode, hop, decodeRet_ret, show c ≠ .reserved from hwf]
  | reti c => simp [encode, decode, hop, decodeRet_reti, show c ≠ .reserved from hwf]
  | retn c => simp [encode, decode, hop, decodeRet_retn, show c ≠ .reserved from hwf]
  | halt c => simp [encode, decode, hop, decodeHalt_ok, show c ≠ .reserved from hwf]

/-- Settles O1: the opcode names the operation back, and its arm finds each field where the encoder put it. -/
theorem decodeOfEncode : Obligations.DecodeOfEncode :=
  fun _ _ hm hwf => decode_encode hm hwf

end Sys2Proof
end

section
/-! SUPPORT. The decoder beside the table of spec/opcode_table.json (30_encoding.md R97): an instruction's word is its row's,
and a row's words decode to instructions of the row. -/

namespace Sys2Proof

open Sys2Proof.Config (OpcodeMap)

theorem rowOf_mem (i : Instr) : rowOf i ∈ opcodeRows := by
  cases i <;> simp [rowOf, opcodeRows]

/-- The pattern of a row, its other bits zero, is a word of the row, so every row is an instruction's. -/
theorem decode_pattern : ∀ r ∈ opcodeRows, (decode defaultOpcodeMap r.pattern).map rowOf = .ok r := by decide

theorem exists_rowOf {r : Row} (h : r ∈ opcodeRows) : ∃ i, rowOf i = r := by
  have hdecode := decode_pattern r h
  cases hi : decode defaultOpcodeMap r.pattern with
  | error e => rw [hi] at hdecode; cases hdecode
  | ok i =>
    rw [hi] at hdecode
    exact ⟨i, Except.ok.inj hdecode⟩

/-- An instruction's word has the bits its row fixes. -/
theorem encode_and_mask (i : Instr) : encode defaultOpcodeMap i &&& (rowOf i).mask = (rowOf i).pattern := by
  cases i with
  | orR | andR | xorR | addR | adcR | subR | rotlR | rotrR | shlR | shrR | ashrR => exact packR_fixed_FC01FFFF ..
  | orI | andI | xorI | addI | adcI | subI | rotlI | rotrI | shlI | shrI | ashrI
  | loadbBase | storebBase | loadhBase | storehBase | loadBase | storeBase => exact packI_fixed_FC000000 ..
  | cmpR => exact packR_fixed_FF81FFFF ..
  | cmpI => exact packI_fixed_FF800000 ..
  | moveR => exact packR_fixed_FC71FFFF ..
  | moveI | loadbAbs | storebAbs | loadhAbs | storehAbs | loadAbs | storeAbs => exact packI_fixed_FC700000 ..
  | moveToSrR => exact packR_fixed_FFF1FFFF ..
  | moveToSrI => exact packI_fixed_FFF00000 ..
  | moveFromSr => exact packR_fixed_FC7FFFFF ..
  | pop | push => exact packI_fixed_FC7FFFFF ..
  | jpAddr | callAddr | jr => exact packC_fixed_FC300000 ..
  | jpReg | callReg => exact packCReg_fixed_FC31FFFF ..
  | ret | reti | retn | halt => exact packC_fixed_FC3FFFFF ..

/-- The rows with a condition field are those of format C, whose words hold the condition there (30_encoding.md R85). -/
theorem condField_encode {m : OpcodeMap} {i : Instr} (h : (rowOf i).hasCond = true) : condField (encode m i) = i.cond := by
  cases i with
  | jpAddr | callAddr | jr | ret | reti | retn | halt => exact condField_packC ..
  | jpReg | callReg => exact condField_packCReg ..
  | _ => cases h

theorem rowOf_holds_encode {i : Instr} (hwf : i.WellFormed) : (rowOf i).holds (encode defaultOpcodeMap i) := by
  refine ⟨encode_and_mask i, fun hcond => ?_⟩
  rwa [Ne, ← condField_eq_reserved, condField_encode hcond]

/-- The opcode bits, which every row fixes, name the row's operation. -/
theorem opOf_of_mask {m : OpcodeMap} {w mask pattern : Word} {op : Op} (h : w &&& mask = pattern)
    (hmask : mask.extractLsb' 27 5 = BitVec.allOnes 5) (hop : opOf m (pattern.extractLsb' 27 5) = some op) :
    opOf m (opcodeField w) = some op := by
  rw [opcodeField, slice_of_mask h 27 5 hmask, hop]

/-- A register field that a row's mask keeps is the pattern's. -/
theorem reg_of_mask {w mask pattern : Word} {r : Reg} (h : w &&& mask = pattern) (k : Nat)
    (hmask : mask.extractLsb' k 3 = BitVec.allOnes 3) (hr : Reg.ofBits (pattern.extractLsb' k 3) = r) :
    Reg.ofBits (w.extractLsb' k 3) = r := by
  rw [slice_of_mask h k 3 hmask, hr]

/-- The bits a row fixes are the opcode, the mode, and the fields that the operation's arm tests: the arm accepts the word,
and its instruction is of the row. -/
theorem decode_of_rowOf_holds {i : Instr} {w : Word} (h : (rowOf i).holds w) :
    ∃ j, decode defaultOpcodeMap w = .ok j ∧ rowOf j = rowOf i := by
  obtain ⟨hmask, hcode⟩ := h
  have hcond : (rowOf i).hasCond = true → condField w ≠ .reserved := fun h => (condField_eq_reserved w).not.mpr (hcode h)
  cases i
  all_goals
    dsimp only [rowOf] at hmask
    have hop : opOf defaultOpcodeMap (opcodeField w) = some _ := opOf_of_mask hmask rfl rfl
    have hmode : modeBit w = _ := slice_of_mask hmask 26 1 rfl
    rw [decode, hop]
  case orR | andR | xorR | addR | adcR | subR | rotlR | rotrR | shlR | shrR | ashrR =>
    exact ⟨_, decodeAlu_register hmode (slice_of_mask hmask 0 17 rfl), rfl⟩
  case orI | andI | xorI | addI | adcI | subI | rotlI | rotrI | shlI | shrI | ashrI =>
    exact ⟨_, decodeAlu_immediate hmode, rfl⟩
  case cmpR =>
    exact ⟨_, decodeCmp_register (reg_of_mask hmask 23 rfl rfl) hmode (slice_of_mask hmask 0 17 rfl), rfl⟩
  case cmpI => exact ⟨_, decodeCmp_immediate (reg_of_mask hmask 23 rfl rfl) hmode, rfl⟩
  case moveR =>
    exact ⟨_, decodeMove_register (reg_of_mask hmask 20 rfl rfl) hmode (slice_of_mask hmask 0 17 rfl), rfl⟩
  case moveI => exact ⟨_, decodeMove_immediate (reg_of_mask hmask 20 rfl rfl) hmode, rfl⟩
  case moveToSrR =>
    exact ⟨_, decodeMove_registerToSr (reg_of_mask hmask 20 rfl rfl) (reg_of_mask hmask 23 rfl rfl) hmode
      (slice_of_mask hmask 0 17 rfl), rfl⟩
  case moveToSrI =>
    exact ⟨_, decodeMove_immediateToSr (reg_of_mask hmask 20 rfl rfl) (reg_of_mask hmask 23 rfl rfl) hmode, rfl⟩
  case moveFromSr =>
    exact ⟨_, decodeMove_fromSr (reg_of_mask hmask 20 rfl rfl) hmode (slice_of_mask hmask 0 20 rfl), rfl⟩
  case loadbBase | storebBase | loadhBase | storehBase | loadBase | storeBase => exact ⟨_, decodeMem_base hmode, rfl⟩
  case loadbAbs | storebAbs | loadhAbs | storehAbs | loadAbs | storeAbs =>
    exact ⟨_, decodeMem_absolute hmode (reg_of_mask hmask 20 rfl rfl), rfl⟩
  case pop | push =>
    exact ⟨_, decodeStack_ok hmode (reg_of_mask hmask 20 rfl rfl) (slice_of_mask hmask 0 20 rfl), rfl⟩
  all_goals
    replace hcond := hcond rfl
    have hgap : gapField w = _ := slice_of_mask hmask 20 2 rfl
  case jpAddr | callAddr => exact ⟨_, decodeJump_address hgap hcond hmode, rfl⟩
  case jpReg | callReg => exact ⟨_, decodeJump_register hgap hcond hmode (slice_of_mask hmask 0 17 rfl), rfl⟩
  case jr => exact ⟨_, decodeJr_ok hmode hgap hcond, rfl⟩
  case ret => exact ⟨_, decodeRet_ret hmode hgap hcond (slice_of_mask hmask 0 20 rfl), rfl⟩
  case reti => exact ⟨_, decodeRet_reti hmode hgap hcond (slice_of_mask hmask 0 20 rfl), rfl⟩
  case retn => exact ⟨_, decodeRet_retn hmode hgap hcond (slice_of_mask hmask 0 20 rfl), rfl⟩
  case halt => exact ⟨_, decodeHalt_ok hmode hgap hcond (slice_of_mask hmask 0 20 rfl), rfl⟩

/-- Under two maps, words that agree below the opcode and whose opcodes name one operation are read alike: the arms look at
fields of the low 27 bits only. -/
theorem decode_congr {m k : OpcodeMap} {w v : Word} (hop : opOf m (opcodeField w) = opOf k (opcodeField v))
    (h : w.extractLsb' 0 27 = v.extractLsb' 0 27) : decode m w = decode k v := by
  have hslice := slice_of_low27 h
  have hmode : modeBit w = modeBit v := hslice 26 1 (by omega)
  have hdest : destField w = destField v := congrArg Reg.ofBits (hslice 23 3 (by omega))
  have hsrc1 : src1Field w = src1Field v := congrArg Reg.ofBits (hslice 20 3 (by omega))
  have hsrc2 : src2Field w = src2Field v := congrArg Reg.ofBits (hslice 17 3 (by omega))
  have hlow : low17 w = low17 v := hslice 0 17 (by omega)
  have himm : immField w = immField v := hslice 0 20 (by omega)
  have hcond : condField w = condField v := congrArg Cond.ofBits (hslice 22 4 (by omega))
  have hgap : gapField w = gapField v := hslice 20 2 (by omega)
  simp only [decode, hop, decodeAlu, decodeCmp, decodeMove, decodeMem, decodeStack, decodeJump, decodeJr, decodeRet,
    decodeHalt, hmode, hdest, hsrc1, hsrc2, hlow, himm, hcond, hgap]

/-! ## The statements about the table -/

theorem rowOf_holds_of_decode {w : Word} {i : Instr} (h : decode defaultOpcodeMap w = .ok i) : (rowOf i).holds w := by
  obtain ⟨hwf, henc⟩ := encodeOfDecode _ _ _ h
  exact henc ▸ rowOf_holds_encode hwf

theorem decode_of_row_holds {w : Word} {r : Row} (hr : r ∈ opcodeRows) (h : r.holds w) :
    ∃ i, decode defaultOpcodeMap w = .ok i ∧ rowOf i = r := by
  obtain ⟨i, rfl⟩ := exists_rowOf hr
  exact decode_of_rowOf_holds h

/-- Settles O3: a word has one row because it decodes to one instruction. -/
theorem decodesExactlyTheTable : Obligations.DecodesExactlyTheTable := by
  refine ⟨fun w i h => ⟨rowOf_mem i, rowOf_holds_of_decode h⟩, fun w r => decode_of_row_holds, ?_,
    fun m k w v => decode_congr⟩
  intro w r q hr hq hrw hqw
  obtain ⟨i, hi, rfl⟩ := decode_of_row_holds hr hrw
  obtain ⟨j, hj, rfl⟩ := decode_of_row_holds hq hqw
  rw [Except.ok.inj (hi.symm.trans hj)]

end Sys2Proof
end

section
/-! SUPPORT. The two faults of a word that is no instruction (30_encoding.md R89, R95, 60_exceptions.md R248), and the
condition tests (R92). -/

namespace Sys2Proof.Machine

open Sys2Proof Host

/-- The six numbers that the default map leaves reserved. -/
theorem opOf_default_eq_none : ∀ n : BitVec 5, opOf defaultOpcodeMap n = none ↔
    n ∈ [0b00111#5, 0b01110#5, 0b01111#5, 0b11100#5, 0b11101#5, 0b11110#5] := by decide

/-- Settles O4: a word is illegal when its opcode is given to no operation, which the step passes on. -/
theorem reservedOpcodesFault : Obligations.ReservedOpcodesFault :=
  ⟨fun _ _ => decode_eq_illegal.trans opOf_none, fun w => decode_eq_illegal.trans (opOf_default_eq_none (opcodeField w)),
    fun _ _ _ hrun hquiet hfetch hdecode => step_undecoded hrun hquiet hfetch hdecode⟩

/-- Of the words with an assigned opcode, those no row holds are the reserved ones: the others decode. -/
theorem decode_eq_reserved (w : Word) : decode defaultOpcodeMap w = .error .reservedEncoding ↔
    (∃ op, opOf defaultOpcodeMap (opcodeField w) = some op) ∧ ∀ r ∈ opcodeRows, ¬ r.holds w := by
  constructor
  · intro hreserved
    constructor
    · rw [← Option.ne_none_iff_exists', Ne, ← decode_eq_illegal, hreserved]
      nofun
    · intro r hr hholds
      obtain ⟨i, hi, _⟩ := decode_of_row_holds hr hholds
      exact absurd (hreserved.symm.trans hi) nofun
  · rintro ⟨⟨op, hop⟩, hnone⟩
    cases hdecode : decode defaultOpcodeMap w with
    | ok i => exact absurd (rowOf_holds_of_decode hdecode) (hnone _ (rowOf_mem i))
    | error e =>
      cases e with
      | reservedEncoding => rfl
      | illegalInstruction => exact absurd hdecode (decode_answer hop).ne_illegal

/-- Settles O5: the reserved words are those left between the rows and the reserved opcodes, and the step passes the fault
on. -/
theorem reservedEncodingsFault : Obligations.ReservedEncodingsFault :=
  ⟨decode_eq_reserved, fun _ _ _ hrun hquiet hfetch hdecode => step_undecoded hrun hquiet hfetch hdecode⟩

theorem condHolds_eq_none {c : Cond} {sr : Status} : condHolds c sr = none ↔ c = .reserved := by
  cases c <;> simp [condHolds]

/-- Settles O42: each test is its Boolean expression of the flags (30_encoding.md R92). -/
theorem conditionTable : Obligations.ConditionTable := by
  intro s
  refine ⟨rfl, ?_, ?_, ?_, ?_, ?_, ?_, ?_, ?_, ?_, ?_, ?_, ?_, ?_, ?_, fun c => condHolds_eq_none⟩
  all_goals simp [Holds, condHolds]

end Sys2Proof.Machine
end

section
/-! SUPPORT. The results of the ALU as arithmetic, their flags, and the frame of an operation that writes one register and
the flags (40_alu.md R120 to R132, 30_encoding.md R92). -/

namespace Sys2Proof.Machine

open Sys2Proof Sys2Proof.Claims Host

/-! ## Signs -/

/-- The sign bit as a bound on the unsigned value. -/
theorem getLsbD_31_eq_decide (x : Word) : x.getLsbD 31 = decide (2 ^ 31 ≤ x.toNat) := by
  rw [← x.msb_eq_getLsbD_last, x.msb_eq_decide]

/-- The signed value by the sign bit. -/
theorem toInt_eq_ite (x : Word) : x.toInt = if 2 ^ 31 ≤ x.toNat then (x.toNat : Int) - 2 ^ 32 else (x.toNat : Int) := by
  have hcond := x.toInt_eq_toNat_cond
  omega

/-! ## The operations -/

/-- One register and the four flags written: everything else is the frame. -/
theorem aluFrame_result (s : State) (d : Reg) (res : Word) (c v z n : Bool) :
    AluFrame s ((s.setReg d res).setSr (s.sr.withFlags c v z n)) d :=
  ⟨fun r hr => State.reg_setReg_other s d r res hr, rfl, rfl, fun _ => rfl, rfl, rfl, rfl, rfl, rfl⟩

/-- Z and N as every operation but the rotates computes them (40_alu.md R122 to R124). -/
theorem resultZN_of_flags {t : State} {res : Word} (hz : t.sr.z = isZero res) (hn : t.sr.n = isNegative res) :
    ResultZN t res := by
  constructor
  · rw [hz, isZero, beq_iff_eq]
  · rw [hn, isNegative, getLsbD_31_eq_decide, decide_eq_true_iff]

/-! ## Addition (R126, R128) -/

theorem toNat_addResult (x y : Word) (cin : Bool) :
    (addResult x y cin).toNat = (x.toNat + y.toNat + cin.toNat) % 2 ^ 32 :=
  BitVec.toNat_ofNat _ _

/-- V of an addition is set exactly when the signed sum leaves the range of a word. -/
theorem addFlags_v (sr : Status) (x y : Word) (cin : Bool) : (addFlags sr x y cin).v = true ↔
    x.toInt + y.toInt + cin.toNat < -2 ^ 31 ∨ 2 ^ 31 ≤ x.toInt + y.toInt + cin.toNat := by
  have hres := toNat_addResult x y cin
  have hcin := cin.toNat_le
  simp only [addFlags, Status.withFlags, getLsbD_31_eq_decide, Bool.and_eq_true, beq_iff_eq, bne_iff_ne, ne_eq,
    decide_eq_decide, toInt_eq_ite]
  omega

theorem adds_of_exec {i : Instr} {s : State} {d : Reg} {x y : Word} {cin : Bool}
    (h : exec i s = .next (addOp d x y cin s)) : Adds i s d x y cin := by
  have hreg : (addOp d x y cin s).reg d = addResult x y cin := State.reg_setReg_same ..
  refine ⟨_, h, ?_, decide_eq_true_iff, addFlags_v s.sr x y cin, ?_, aluFrame_result .., rfl⟩
  · rw [hreg, toNat_addResult]
  · rw [hreg]
    exact resultZN_of_flags rfl rfl

/-- Settles O19: the four forms are one addition of the operands, with the carry in of each. -/
theorem addAndAdcAdd : Obligations.AddAndAdcAdd :=
  fun _ _ _ => ⟨fun _ => adds_of_exec rfl, fun _ => adds_of_exec rfl, fun _ => adds_of_exec rfl,
    fun _ => adds_of_exec rfl⟩

/-! ## Subtraction (R122, R127) -/

theorem toNat_subResult (x y : Word) : ((subResult x y).toNat : Int) = ((x.toNat : Int) - y.toNat) % 2 ^ 32 := by
  have hsub : (subResult x y).toNat = (2 ^ 32 - y.toNat + x.toNat) % 2 ^ 32 := BitVec.toNat_sub x y
  omega

/-- V of a subtraction is set exactly when the signed difference leaves the range of a word. -/
theorem subFlags_v (sr : Status) (x y : Word) : (subFlags sr x y).v = true ↔
    x.toInt - y.toInt < -2 ^ 31 ∨ 2 ^ 31 ≤ x.toInt - y.toInt := by
  have hres := toNat_subResult x y
  simp only [subFlags, Status.withFlags, getLsbD_31_eq_decide, Bool.and_eq_true, bne_iff_ne, ne_eq,
    decide_eq_decide, toInt_eq_ite]
  omega

theorem subtractFlags_of_sr {s t : State} {x y : Word} (h : t.sr = subFlags s.sr x y) :
    SubtractFlags t x y (subResult x y) := by
  refine ⟨toNat_subResult x y, ?_, ?_, resultZN_of_flags (congrArg Status.z h) (congrArg Status.n h)⟩
  · rw [h]
    exact decide_eq_true_iff
  · rw [h]
    exact subFlags_v s.sr x y

theorem subtracts_of_exec {i : Instr} {s : State} {d : Reg} {x y : Word} (h : exec i s = .next (subOp d x y s)) :
    Subtracts i s d x y := by
  have hreg : (subOp d x y s).reg d = subResult x y := State.reg_setReg_same ..
  exact ⟨_, h, hreg ▸ subtractFlags_of_sr rfl, aluFrame_result .., rfl⟩

/-- Settles O20: both forms are one subtraction of the operands. -/
theorem subSubtracts : Obligations.SubSubtracts :=
  fun _ _ _ => ⟨fun _ => subtracts_of_exec rfl, fun _ => subtracts_of_exec rfl⟩

/-! ## Comparison (R129, 30_encoding.md R92) -/

/-- After a subtraction N differs from V exactly when the first operand is the lesser: a difference that leaves the signed
range has the wrong sign. -/
theorem n_ne_v_of_subtractFlags {t : State} {x y res : Word} (h : SubtractFlags t x y res) :
    t.sr.n ≠ t.sr.v ↔ x.toInt < y.toInt := by
  obtain ⟨hres, _, hv, _, hn⟩ := h
  rw [Ne, Bool.eq_iff_iff, hv, hn]
  simp only [toInt_eq_ite]
  omega

theorem z_of_subtractFlags {t : State} {x y res : Word} (h : SubtractFlags t x y res) : t.sr.z = true ↔ x = y := by
  obtain ⟨hres, _, _, hz, _⟩ := h
  rw [hz, ← BitVec.toNat_inj, ← BitVec.toNat_inj, BitVec.toNat_ofNat]
  omega

theorem compares_of_exec {i : Instr} {s : State} {x y : Word} (h : exec i s = .next (cmpOp x y s)) :
    Compares i s x y := by
  have hflags : SubtractFlags (cmpOp x y s) x y (subResult x y) := subtractFlags_of_sr rfl
  have hc : (cmpOp x y s).sr.c = true ↔ x.toNat < y.toNat := decide_eq_true_iff
  have hz := z_of_subtractFlags hflags
  have hlt := n_ne_v_of_subtractFlags hflags
  have hnc : (cmpOp x y s).sr.c = false ↔ x.toNat ≥ y.toNat := by rw [← Bool.not_eq_true, hc, not_lt]
  have hnz : (cmpOp x y s).sr.z = false ↔ x ≠ y := by rw [← Bool.not_eq_true, hz]
  have hnlt : (cmpOp x y s).sr.n = (cmpOp x y s).sr.v ↔ x.toInt ≥ y.toInt := by rw [← not_ne_iff, hlt, not_lt]
  obtain ⟨_, heq, hne, hless, hle, hgt, hge, hult, hule, hugt, huge, _⟩ := conditionTable (cmpOp x y s)
  refine ⟨_, h, ⟨_, hflags⟩, heq.trans hz, hne.trans hnz, hless.trans hlt, ?_, ?_, hge.trans hnlt, hult.trans hc, ?_, ?_,
    huge.trans hnc, fun _ => rfl, rfl, rfl, fun _ => rfl, rfl, ⟨rfl, rfl, rfl, rfl⟩, rfl⟩
  · rw [hle, hz, hlt, ← BitVec.toInt_inj]
    omega
  · rw [hgt, hnz, hnlt, Ne, ← BitVec.toInt_inj]
    omega
  · rw [hule, hc, hz, ← BitVec.toNat_inj]
    omega
  · rw [hugt, hnc, hnz, Ne, ← BitVec.toNat_inj]
    omega

/-- Settles O21: both forms are one comparison, and each condition reads the relation off the flags of the subtraction. -/
theorem cmpCompares : Obligations.CmpCompares :=
  fun _ _ => ⟨fun _ => compares_of_exec rfl, fun _ => compares_of_exec rfl⟩

/-! ## Logic (R123, R130 to R132) -/

theorem bitwise_of_exec {f : Bool → Bool → Bool} {i : Instr} {s : State} {d : Reg} {x y res : Word}
    (h : exec i s = .next (logicOp d res s)) (hbits : ∀ k, res.getLsbD k = f (x.getLsbD k) (y.getLsbD k)) :
    Bitwise f i s d x y := by
  have hreg : (logicOp d res s).reg d = res := State.reg_setReg_same ..
  refine ⟨_, h, fun k _ => ?_, rfl, rfl, ?_, aluFrame_result .., rfl⟩
  · rw [hreg, hbits]
  · rw [hreg]
    exact resultZN_of_flags rfl rfl

/-- Settles O22: the bits of the result are those of the library's bitwise operations. -/
theorem logicIsBitwise : Obligations.LogicIsBitwise :=
  fun _ _ _ =>
    ⟨fun _ => bitwise_of_exec rfl fun _ => BitVec.getLsbD_and, fun _ => bitwise_of_exec rfl fun _ => BitVec.getLsbD_and,
      fun _ => bitwise_of_exec rfl fun _ => BitVec.getLsbD_or, fun _ => bitwise_of_exec rfl fun _ => BitVec.getLsbD_or,
      fun _ => bitwise_of_exec rfl fun _ => BitVec.getLsbD_xor, fun _ => bitwise_of_exec rfl fun _ => BitVec.getLsbD_xor⟩

end Sys2Proof.Machine
end

section
/-! SUPPORT. The shifts and rotates as those of the library (40_alu.md R124, R125, R133 to R139): a shift by `n` is `n`
single shifts, and a rotate moves each bit by the amount modulo 32. -/

namespace Sys2Proof.Machine

open Sys2Proof Sys2Proof.Claims Host

theorem shifts_of_exec {i : Instr} {s : State} {d : Reg} {n : Nat} {res : Word} {out : Option Bool} {carry : Bool}
    (h : exec i s = .next (shiftOp d res out s)) (hout : n ≠ 0 → out = some carry) : Shifts i s d n res carry := by
  refine ⟨_, h, State.reg_setReg_same .., fun hn => ?_, resultZN_of_flags rfl rfl, aluFrame_result ..⟩
  show out.getD _ = carry
  rw [hout hn, Option.getD_some]

/-! ## Shift left (R134) -/

theorem iterate_shiftLeft (n : Nat) (x : Word) : iterate (· <<< 1) n x = x <<< n := by
  induction n with
  | zero => exact x.shiftLeft_zero.symm
  | succ k ih => rw [iterate, ih, BitVec.shiftLeft_add]

theorem shlResult_eq (x : Word) (n : Nat) : shlResult x n = x <<< n := by
  unfold shlResult
  split
  · next hn => rw [hn, BitVec.shiftLeft_zero]
  · split
    · exact BitVec.eq_of_toNat_eq (by rw [BitVec.toNat_ofNat, BitVec.toNat_shiftLeft, Nat.shiftLeft_eq])
    · rw [BitVec.shiftLeft_eq_zero (by omega)]

/-- The bit that leaves at the top is bit 31 before the last single shift. -/
theorem shlCarry_eq (x : Word) {n : Nat} (hn : n ≠ 0) : shlCarry x n = some ((x <<< (n - 1)).getLsbD 31) := by
  rw [shlCarry, if_neg hn, BitVec.getLsbD_shiftLeft]
  split
  · simp [show 31 - (n - 1) = 32 - n by omega, show ¬ 31 < n - 1 by omega]
  · simp [show 31 < n - 1 by omega]

theorem shl_shifts {i : Instr} {s : State} {d : Reg} {x : Word} {n : Nat}
    (h : exec i s = .next (shiftOp d (shlResult x n) (shlCarry x n) s)) :
    Shifts i s d n (iterate (· <<< 1) n x) ((iterate (· <<< 1) (n - 1) x).getLsbD 31) := by
  rw [iterate_shiftLeft, iterate_shiftLeft, ← shlResult_eq]
  exact shifts_of_exec h (shlCarry_eq x)

/-- Settles O23: single shifts left add up to one, by whichever amount the mode gives. -/
theorem shlIteratesSingleShifts : Obligations.ShlIteratesSingleShifts :=
  fun _ _ _ _ _ => ⟨shl_shifts rfl, shl_shifts rfl⟩

/-! ## Shift right (R135) -/

theorem iterate_ushiftRight (n : Nat) (x : Word) : iterate (· >>> 1) n x = x >>> n := by
  induction n with
  | zero => exact x.ushiftRight_zero.symm
  | succ k ih => rw [iterate, ih, BitVec.shiftRight_add]

theorem shrResult_eq (x : Word) (n : Nat) : shrResult x n = x >>> n := by
  have hlt : x.toNat / 2 ^ n < 2 ^ 32 := (Nat.div_le_self _ _).trans_lt x.isLt
  unfold shrResult
  split
  · next hn => rw [hn, BitVec.ushiftRight_zero]
  · split
    · exact BitVec.eq_of_toNat_eq (by
        rw [BitVec.toNat_ofNat, BitVec.toNat_ushiftRight, Nat.shiftRight_eq_div_pow, Nat.mod_eq_of_lt hlt])
    · rw [BitVec.ushiftRight_eq_zero (by omega)]

/-- The bit that leaves at the bottom is bit 0 before the last single shift. -/
theorem shrCarry_eq (x : Word) {n : Nat} (hn : n ≠ 0) : shrCarry x n = some ((x >>> (n - 1)).getLsbD 0) := by
  rw [shrCarry, if_neg hn, BitVec.getLsbD_ushiftRight, Nat.add_zero]
  split
  · rfl
  · rw [BitVec.getLsbD_of_ge x _ (by omega)]

theorem shr_shifts {i : Instr} {s : State} {d : Reg} {x : Word} {n : Nat}
    (h : exec i s = .next (shiftOp d (shrResult x n) (shrCarry x n) s)) :
    Shifts i s d n (iterate (· >>> 1) n x) ((iterate (· >>> 1) (n - 1) x).getLsbD 0) := by
  rw [iterate_ushiftRight, iterate_ushiftRight, ← shrResult_eq]
  exact shifts_of_exec h (shrCarry_eq x)

/-- Settles O24: single shifts right add up to one, by whichever amount the mode gives. -/
theorem shrIteratesSingleShifts : Obligations.ShrIteratesSingleShifts :=
  fun _ _ _ _ _ => ⟨shr_shifts rfl, shr_shifts rfl⟩

/-! ## Arithmetic shift right (R136) -/

theorem iterate_sshiftRight (n : Nat) (x : Word) : iterate (·.sshiftRight 1) n x = x.sshiftRight n := by
  induction n with
  | zero => exact x.sshiftRight_zero.symm
  | succ k ih => rw [iterate, ih, BitVec.sshiftRight_add]

/-- Shifted by its width or more, a word is all sign bits. -/
theorem sshiftRight_eq_allBits (x : Word) {n : Nat} (hn : 32 ≤ n) : x.sshiftRight n = allBits (x.getLsbD 31) := by
  have hsign : x.msb = x.getLsbD 31 := x.msb_eq_getLsbD_last
  apply BitVec.eq_of_getLsbD_eq
  intro k hk
  rw [BitVec.getLsbD_sshiftRight, if_neg (by omega), hsign, decide_eq_false (by omega), Bool.not_false, Bool.true_and]
  cases x.getLsbD 31 with
  | false => exact BitVec.getLsbD_zero.symm
  | true => exact (BitVec.getLsbD_allOnes.trans (decide_eq_true hk)).symm

theorem ashrResult_eq (x : Word) (n : Nat) : ashrResult x n = x.sshiftRight n := by
  unfold ashrResult
  split
  · next hn => rw [hn, BitVec.sshiftRight_zero]
  · split
    · rw [← BitVec.ofInt_toInt (x := x.sshiftRight n), BitVec.toInt_sshiftRight, Int.shiftRight_eq_div_pow,
        Nat.cast_pow, Nat.cast_ofNat]
    · rw [sshiftRight_eq_allBits x (by omega)]

/-- The bit that leaves at the bottom is bit 0 before the last single shift; past the width it is the sign. -/
theorem ashrCarry_eq (x : Word) {n : Nat} (hn : n ≠ 0) : ashrCarry x n = some ((x.sshiftRight (n - 1)).getLsbD 0) := by
  have hbit : (x.sshiftRight (n - 1)).getLsbD 0 = if n - 1 < 32 then x.getLsbD (n - 1) else x.getLsbD 31 :=
    (x.getLsbD_sshiftRight (n - 1) 0).trans (congrArg (ite _ _) x.msb_eq_getLsbD_last)
  rw [ashrCarry, if_neg hn, hbit]
  split
  · rw [if_pos (by omega)]
  · split
    · rw [show n - 1 = 31 by omega]
    · rfl

theorem ashr_shifts {i : Instr} {s : State} {d : Reg} {x : Word} {n : Nat}
    (h : exec i s = .next (shiftOp d (ashrResult x n) (ashrCarry x n) s)) :
    Shifts i s d n (iterate (·.sshiftRight 1) n x) ((iterate (·.sshiftRight 1) (n - 1) x).getLsbD 0) := by
  rw [iterate_sshiftRight, iterate_sshiftRight, ← ashrResult_eq]
  exact shifts_of_exec h (ashrCarry_eq x)

/-- Settles O25: single arithmetic shifts add up to one, by whichever amount the mode gives. -/
theorem ashrIteratesSingleShifts : Obligations.AshrIteratesSingleShifts :=
  fun _ _ _ _ _ => ⟨ashr_shifts rfl, ashr_shifts rfl⟩

/-! ## The amount (R133) -/

/-- Settles O26: the low five bits are the remainder by 32. -/
theorem shiftAmountByMode : Obligations.ShiftAmountByMode := by
  intro s y
  unfold shiftAmount
  refine ⟨fun hmode => ?_, fun hmode => ?_⟩
  · rw [hmode]
  · rw [hmode, BitVec.extractLsb'_toNat]
    rfl

/-! ## Rotates (R137 to R139) -/

theorem rotates_of_exec {i : Instr} {s : State} {d : Reg} {res : Word} {p : Word → Prop}
    (h : exec i s = .next (rotateOp d res s)) (hp : p res) : Rotates i s d p := by
  have hreg : (rotateOp d res s).reg d = res := State.reg_setReg_same ..
  exact ⟨_, h, hreg.symm ▸ hp, aluFrame_result ..⟩

theorem rotlResult_eq (x y : Word) : rotlResult x (rotateAmount y) = x.rotateLeft y.toNat := by
  rw [rotlResult, rotateAmount, BitVec.rotateLeft_def]
  split
  · next hn => simp [hn, BitVec.ushiftRight_eq_zero]
  · rfl

theorem rotrResult_eq (x y : Word) : rotrResult x (rotateAmount y) = x.rotateRight y.toNat := by
  rw [rotrResult, rotateAmount, BitVec.rotateRight_def]
  split
  · next hn => simp [hn]
  · rfl

theorem getLsbD_rotlResult (x y : Word) {k : Nat} (hk : k < 32) :
    (rotlResult x (rotateAmount y)).getLsbD ((k + y.toNat) % 32) = x.getLsbD k := by
  rw [rotlResult_eq, BitVec.getLsbD_rotateLeft]
  by_cases hwrap : (k + y.toNat) % 32 < y.toNat % 32
  · rw [decide_eq_true hwrap, cond_true]
    congr 1
    omega
  · rw [decide_eq_false hwrap, cond_false, decide_eq_true (Nat.mod_lt _ (by omega)), Bool.true_and]
    congr 1
    omega

theorem getLsbD_rotrResult (x y : Word) {k : Nat} (hk : k < 32) :
    (rotrResult x (rotateAmount y)).getLsbD k = x.getLsbD ((k + y.toNat) % 32) := by
  rw [rotrResult_eq, BitVec.getLsbD_rotateRight]
  by_cases hwrap : k < 32 - y.toNat % 32
  · rw [decide_eq_true hwrap, cond_true]
    congr 1
    omega
  · rw [decide_eq_false hwrap, cond_false, decide_eq_true hk, Bool.true_and]
    congr 1
    omega

/-- Settles O27: the rotates are the library's, whose bits move by the amount modulo the width. -/
theorem rotatesMoveBits : Obligations.RotatesMoveBits :=
  fun _ _ _ => ⟨fun _ => rotates_of_exec rfl fun _ => getLsbD_rotlResult _ _,
    fun _ => rotates_of_exec rfl fun _ => getLsbD_rotlResult _ _,
    fun _ => rotates_of_exec rfl fun _ => getLsbD_rotrResult _ _,
    fun _ => rotates_of_exec rfl fun _ => getLsbD_rotrResult _ _⟩

end Sys2Proof.Machine
end

section
/-! SUPPORT. Where an instruction can stop (60_exceptions.md R248): an operation fails only at an access, and a term with
the reserved condition before it does anything (30_encoding.md R95). -/

namespace Sys2Proof.Machine

open Sys2Proof Host

/-- The two model faults of a data access: an unpopulated address, or an undefined byte. -/
def MemoryFault (f : Fault) : Prop := (∃ a w d, f = .unmappedAccess a w d) ∨ ∃ a, f = .unwrittenRead a

/-! ## The operations -/

section
variable {s : State} {f : Fault}

theorem memRead_error {a : Word} {w : Width} (h : memRead s a w = .error f) : MemoryFault f := by
  unfold memRead at h
  dsimp only at h
  split at h
  · cases h
    exact .inl ⟨_, _, _, rfl⟩
  · cases h
  · split at h
    · cases h
    · cases h
      exact .inr ⟨_, rfl⟩

theorem memWrite_error {a v : Word} {w : Width} (h : memWrite s a w v = .error f) : MemoryFault f := by
  unfold memWrite at h
  dsimp only at h
  split at h
  · cases h
    exact .inl ⟨_, _, _, rfl⟩
  · cases h
  · cases h

theorem popWord_error (h : popWord s = .error f) : MemoryFault f := by
  unfold popWord at h
  split at h
  · next hr =>
    cases h
    exact memRead_error hr
  · cases h

theorem popPc_error (h : popPc s = .error f) : MemoryFault f := by
  unfold popPc at h
  split at h
  · next hp =>
    cases h
    exact popWord_error hp
  · cases h

theorem leaveInterrupt_error {l : Level} (h : leaveInterrupt s l = .error f) : MemoryFault f := by
  unfold leaveInterrupt at h
  split at h
  · next hp =>
    cases h
    exact popPc_error hp
  · cases h

theorem loadOp_error {r : Reg} {a : Word} {w : Width} (h : loadOp r a w s = .error f) : MemoryFault f := by
  unfold loadOp at h
  split at h
  · next hr =>
    cases h
    exact memRead_error hr
  · cases h

/-- A push is a write at the decremented stack pointer. -/
theorem pushWord_error {v : Word} (h : pushWord s v = .error f) : MemoryFault f := memWrite_error h

theorem callOp_error {target : Word} (h : callOp target s = .error f) : MemoryFault f := by
  unfold callOp at h
  split at h
  · next hp =>
    cases h
    exact pushWord_error hp
  · cases h

end

/-! ## Outcomes -/

/-- Not refused, and stopped if at all by a fault of a data access. -/
structure StopsAtMemory (o : Outcome State Fault Refusal) : Prop where
  notRefused : ∀ r, o ≠ .refused r
  fault : ∀ f, o = .fault f → MemoryFault f

theorem stopsAtMemory_next (t : State) : StopsAtMemory (.next t) := ⟨nofun, nofun⟩

theorem stopsAtMemory_finish {r : Except Fault State} (h : ∀ f, r = .error f → MemoryFault f) :
    StopsAtMemory (finish r) := by
  cases r with
  | ok t => exact stopsAtMemory_next t
  | error f =>
    refine ⟨nofun, fun g hg => ?_⟩
    cases hg
    exact h f rfl

/-- With a condition that has a test, an instruction is skipped or has its effect. -/
theorem stopsAtMemory_whenHolds {i : Instr} {s : State} {taken : Except Fault State} (hwf : i.WellFormed)
    (h : ∀ f, taken = .error f → MemoryFault f) : StopsAtMemory (whenHolds i s taken) := by
  cases hc : condHolds i.cond s.sr with
  | none => exact absurd (condHolds_eq_none.mp hc) hwf
  | some b =>
    cases b with
    | false => exact whenHolds_skipped hc ▸ stopsAtMemory_next s
    | true => exact whenHolds_taken hc ▸ stopsAtMemory_finish h

/-- The reserved code has no test, so the term stops before its effect. -/
theorem whenHolds_reserved {i : Instr} {s : State} {taken : Except Fault State} (h : i.cond = .reserved) :
    whenHolds i s taken = .fault (.reservedEncoding (encode s.params.opcodeMap i) (s.pc - 4#32)) := by
  rw [whenHolds, h]
  rfl

/-! ## The instructions -/

theorem stopsAtMemory_exec {i : Instr} (s : State) (hwf : i.WellFormed) : StopsAtMemory (exec i s) := by
  cases i with
  | loadBase | loadAbs | loadhBase | loadhAbs | loadbBase | loadbAbs =>
    exact stopsAtMemory_finish fun _ => loadOp_error
  | storeBase | storeAbs | storehBase | storehAbs | storebBase | storebAbs =>
    exact stopsAtMemory_finish fun _ => memWrite_error
  | push => exact stopsAtMemory_finish fun _ => pushWord_error
  | pop r =>
    show StopsAtMemory (execPop r s)
    unfold execPop
    split
    · next hp => exact ⟨nofun, fun g hg => by cases hg; exact popWord_error hp⟩
    · exact stopsAtMemory_next _
  | jpAddr | jpReg | jr | halt => exact stopsAtMemory_whenHolds hwf nofun
  | callAddr | callReg => exact stopsAtMemory_whenHolds hwf fun _ => callOp_error
  | ret => exact stopsAtMemory_whenHolds hwf fun _ => popPc_error
  | reti | retn => exact stopsAtMemory_whenHolds hwf fun _ => leaveInterrupt_error
  | _ => exact stopsAtMemory_next _

/-- Only format C carries a condition, which it tests before anything else (30_encoding.md R93). -/
theorem exec_reserved {i : Instr} (s : State) (h : i.cond = .reserved) :
    exec i s = .fault (.reservedEncoding (encode s.params.opcodeMap i) (s.pc - 4#32)) := by
  cases i with
  | jpAddr | jpReg | jr | halt | callAddr | callReg | ret | reti | retn => exact whenHolds_reserved h
  | _ => cases h

/-- Settles O55: a term either has a condition with a test, and then stops only at an access, or has the reserved one. -/
theorem instructionsStopOnlyAtMemory : Obligations.InstructionsStopOnlyAtMemory := by
  intro i s
  by_cases hwf : i.WellFormed
  · have hstops := stopsAtMemory_exec s hwf
    exact ⟨hstops.notRefused, fun f _ => hstops.fault f, absurd hwf⟩
  · have hfault := exec_reserved s (not_not.mp hwf)
    exact ⟨fun r => hfault ▸ nofun, fun _ h => absurd h hwf, fun _ => hfault⟩

end Sys2Proof.Machine
end

section
/-! SUPPORT. Words of the spec's examples, read back from the instructions they encode (30_encoding.md R97). -/

namespace Sys2Proof

/-- Under the numbers of R88, a word that encodes an instruction decodes to it. -/
theorem decode_of_encode_eq {w : Word} {i : Instr} (hwf : i.WellFormed) (h : encode defaultOpcodeMap i = w) :
    decode defaultOpcodeMap w = .ok i :=
  h ▸ decode_encode defaultOpcodeMap_distinct hwf

/-- Settles O6: each word is the encoding of its instruction. -/
theorem aluAndMoveWordsDecode : Obligations.AluAndMoveWordsDecode := by
  and_intros <;> exact decode_of_encode_eq nofun rfl

end Sys2Proof
end

section
/-! SUPPORT. SR seen as a word, bit by bit (10_state.md R28, R31), and what each form of MOVE writes and leaves alone
(41_move.md R150 to R153). -/

namespace Sys2Proof.Machine

open Sys2Proof Sys2Proof.Claims Host

/-! ## SR as a word -/

/-- The five live bits, appended one at a time below 27 zeros. -/
theorem Status.toWord_eq_concat (sr : Status) :
    sr.toWord = (((((0#27).concat sr.gie).concat sr.n).concat sr.z).concat sr.v).concat sr.c := rfl

theorem Status.toNat_toWord (sr : Status) : sr.toWord.toNat =
    16 * sr.gie.toNat + 8 * sr.n.toNat + 4 * sr.z.toNat + 2 * sr.v.toNat + sr.c.toNat := by
  simp only [toWord_eq_concat, BitVec.toNat_concat, BitVec.toNat_ofNat]
  omega

/-- SR keeps the low five bits of the word written to it: they are the live ones, and the others read as zero. -/
theorem Status.toWord_ofWord (w : Word) : (ofWord w).toWord = w &&& 0x1F#32 := by
  have hmask : 0x1F#32 = (BitVec.allOnes 5).setWidth 32 := rfl
  refine BitVec.eq_of_getLsbD_eq fun k _ => ?_
  rw [toWord_eq_concat, BitVec.getLsbD_and, hmask, BitVec.getLsbD_setWidth, BitVec.getLsbD_allOnes]
  match k with
  | 0 | 1 | 2 | 3 | 4 => simp [ofWord]
  | k + 5 => simp

/-! ## The immediate -/

/-- Sign extension keeps every bit of the field (30_encoding.md R86). -/
theorem getLsbD_sext (i : Imm20) {k : Nat} (hk : k < 20) : (sext i).getLsbD k = i.getLsbD k := by
  rw [sext, BitVec.getLsbD_signExtend, if_pos hk, decide_eq_true (by omega), Bool.true_and]

/-! ## The moves -/

/-- Writing SR alone leaves everything but SR as it is. -/
theorem setSr_frame (s : State) (x : Status) :
    SameRegs s (s.setSr x) ∧ (s.setSr x).pc = s.pc ∧ SameMemory s (s.setSr x) ∧ (s.setSr x).io = s.io ∧
      SameControl s (s.setSr x) ∧ (s.setSr x).draws = s.draws :=
  ⟨fun _ => rfl, rfl, fun _ => rfl, rfl, ⟨rfl, rfl, rfl, rfl⟩, rfl⟩

/-- An instruction that writes one register alone delivers the value there and changes nothing else, SR included. -/
theorem moves_of_exec {i : Instr} {s : State} {d : Reg} {v : Word} (h : exec i s = .next (s.setReg d v)) :
    ∃ t, exec i s = .next t ∧ t.reg d = v ∧ t.sr = s.sr ∧ AluFrame s t d ∧ t.draws = s.draws :=
  have hothers : SameRegsBut s (s.setReg d v) d := fun r hr => State.reg_setReg_other s d r v hr
  ⟨_, h, State.reg_setReg_same .., rfl, ⟨hothers, rfl, rfl, fun _ => rfl, rfl, rfl, rfl, rfl, rfl⟩, rfl⟩

/-- Settles O29: both forms write SR alone, with the live bits of the source. -/
theorem moveToSrWritesLiveBits : Obligations.MoveToSrWritesLiveBits := by
  intro s
  refine ⟨fun r => ?register, fun i => ?immediate⟩
  case register =>
    exact ⟨_, rfl, Status.toWord_ofWord (s.reg r), rfl, rfl, rfl, rfl, rfl, setSr_frame ..⟩
  case immediate =>
    have hbit {k : Nat} (hk : k < 5) : (sext i).getLsbD k = i.getLsbD k := getLsbD_sext i (by omega)
    exact ⟨_, rfl, Status.toWord_ofWord (sext i), hbit (by decide), hbit (by decide), hbit (by decide),
      hbit (by decide), hbit (by decide), setSr_frame ..⟩

/-- Settles O30: the word moved is SR's, whose value is the sum of its live bits. -/
theorem moveFromSrReadsLiveBits : Obligations.MoveFromSrReadsLiveBits := by
  intro s d
  obtain ⟨t, hexec, hreg, hframe⟩ := moves_of_exec (i := .moveFromSr d) (s := s) rfl
  exact ⟨t, hexec, hreg ▸ s.sr.toNat_toWord, hframe⟩

/-- Settles O28: both forms write their destination alone. -/
theorem moveCopies : Obligations.MoveCopies :=
  fun _ _ => ⟨fun _ => moves_of_exec rfl, fun _ => moves_of_exec rfl⟩

end Sys2Proof.Machine
end

section
/-! SUPPORT. Loads and stores, each by what answers its access (42_memory_ops.md R160 to R167, 20_memory.md R65). -/

namespace Sys2Proof.Machine

open Sys2Proof Sys2Proof.Claims Host

/-! ## The value a load delivers -/

theorem lowBits_lowBits (w : Width) (v : Word) : lowBits w (lowBits w v) = lowBits w v := by
  cases w with
  | byte | half => simp [lowBits]
  | word => rfl

theorem extendLoad_word (mode : Config.NarrowExt) (v : Word) : extendLoad mode .word v = v := by
  cases mode <;> rfl

/-- A narrow load extends the bits of its access as `NARROW_LOAD_EXT` says. -/
theorem extendLoad_of_ne_word (s : State) {w : Width} (hw : w ≠ .word) (v : Word) :
    extendLoad s.params.narrowLoadExt w (lowBits w v) = narrow s (8 * w.bytes) v := by
  unfold extendLoad narrow
  cases w with
  | word => exact absurd rfl hw
  | byte | half =>
    cases s.params.narrowLoadExt with
    | zero => rfl
    | sign => simp [lowBits, Width.bytes]

/-! ## Loads -/

theorem sameRegsBut_setReg (s : State) (r : Reg) (v : Word) : SameRegsBut s (s.setReg r v) r :=
  fun q hq => State.reg_setReg_other s r q v hq

theorem loadOp_io {s : State} {r : Reg} {ea : Word} {w : Width} (hp : IoAt s ea w) :
    loadOp r ea w s = .ok (State.setReg
      { s with io := s.io ++ [.read (align ea w) w (lowBits w (Config.ioAnswer s.io (align ea w) w))] } r
      (extendLoad s.params.narrowLoadExt w (lowBits w (Config.ioAnswer s.io (align ea w) w)))) := by
  rw [loadOp, memRead_io hp]

section
variable {i : Instr} {s : State} {r : Reg} {ea : Word} {w : Width} {ext : Word → Word}

theorem loads_of_exec (h : exec i s = finish (loadOp r ea w s))
    (hext : ∀ v, extendLoad s.params.narrowLoadExt w (lowBits w v) = ext v) {v : Word}
    (hp : PlainAt s ea w) (hs : StoredAt s ea w v) : Loads i s r (ext v) := by
  refine ⟨s.setReg r (ext v), ?_, State.reg_setReg_same .., sameRegsBut_setReg s r _, rfl, rfl, fun _ => rfl, rfl,
    ⟨rfl, rfl, rfl, rfl⟩, rfl⟩
  rw [h, loadOp_stored hp hs, hext, finish]

/-- The environment's answer has no bits above its width, so the extension of its low bits is that of the answer. -/
theorem loadsIo_of_exec (h : exec i s = finish (loadOp r ea w s))
    (hext : ∀ v, extendLoad s.params.narrowLoadExt w (lowBits w v) = ext v) (hp : IoAt s ea w) :
    LoadsIo i s r ea w ext := by
  refine ⟨_, _, h.trans (congrArg finish (loadOp_io hp)), rfl, ?_, rfl, sameRegsBut_setReg _ r _, rfl, rfl, fun _ => rfl,
    ⟨rfl, rfl, rfl, rfl⟩, rfl⟩
  rw [State.reg_setReg_same, ← hext, lowBits_lowBits]

end

/-- Settles O31: both forms are one load of a word, which the extension leaves as it is. -/
theorem loadReadsWord : Obligations.LoadReadsWord := by
  intro s r v i
  have hext : ∀ v, extendLoad s.params.narrowLoadExt .word (lowBits .word v) = id v := extendLoad_word _
  exact ⟨fun _ => loads_of_exec rfl hext, loads_of_exec rfl hext, fun _ => loadsIo_of_exec rfl hext,
    loadsIo_of_exec rfl hext⟩

/-- Settles O32: both forms of each are one load, extended by its width. -/
theorem narrowLoadsExtend : Obligations.NarrowLoadsExtend := by
  intro s r v i
  have hhalf : ∀ v, extendLoad s.params.narrowLoadExt .half (lowBits .half v) = narrow s 16 v :=
    extendLoad_of_ne_word s nofun
  have hbyte : ∀ v, extendLoad s.params.narrowLoadExt .byte (lowBits .byte v) = narrow s 8 v :=
    extendLoad_of_ne_word s nofun
  exact ⟨fun _ => loads_of_exec rfl hhalf, loads_of_exec rfl hhalf, fun _ => loads_of_exec rfl hbyte,
    loads_of_exec rfl hbyte, fun _ => loadsIo_of_exec rfl hhalf, loadsIo_of_exec rfl hhalf,
    fun _ => loadsIo_of_exec rfl hbyte, loadsIo_of_exec rfl hbyte⟩

/-! ## Stores -/

section
variable {i : Instr} {s : State} {r : Reg} {ea : Word} {w : Width}

theorem stores_of_exec (h : exec i s = finish (storeOp r ea w s)) (hp : PlainAt s ea w) :
    Stores i s ea w (s.reg r) :=
  ⟨_, h.trans (congrArg finish (storeOp_plain hp)), storedAt_store s ea _ w, sameMemoryBut_store s ea _ w, fun _ => rfl,
    rfl, rfl, rfl, ⟨rfl, rfl, rfl, rfl⟩, rfl⟩

theorem storesIo_of_exec (h : exec i s = finish (storeOp r ea w s)) (hp : IoAt s ea w) :
    StoresIo i s ea w (s.reg r) :=
  ⟨_, h.trans (congrArg finish (memWrite_io hp)), rfl, fun _ => rfl, fun _ => rfl, rfl, rfl, ⟨rfl, rfl, rfl, rfl⟩, rfl⟩

end

/-- Settles O33: both forms are one store of a word. -/
theorem storeWritesWord : Obligations.StoreWritesWord :=
  fun _ _ _ => ⟨fun _ => stores_of_exec rfl, stores_of_exec rfl, fun _ => storesIo_of_exec rfl, storesIo_of_exec rfl⟩

/-- Settles O34: both forms of each are one store, of as many low bytes as its width. -/
theorem narrowStoresWriteLowBits : Obligations.NarrowStoresWriteLowBits :=
  fun _ _ _ => ⟨fun _ => stores_of_exec rfl, stores_of_exec rfl, fun _ => stores_of_exec rfl, stores_of_exec rfl,
    fun _ => storesIo_of_exec rfl, storesIo_of_exec rfl, fun _ => storesIo_of_exec rfl, storesIo_of_exec rfl⟩

end Sys2Proof.Machine
end

section
/-! SUPPORT. What a push and a pop do, by what answers the access (42_memory_ops.md R168 to R171), and a pop after a
push. -/

namespace Sys2Proof.Machine

open Sys2Proof Sys2Proof.Claims Host

/-! ## PUSH -/

/-- A push to plain memory leaves the pc, the record and the count of draws alone too. -/
theorem pushes_of_plain {s : State} (v : Word) (hp : PlainAt s (s.reg .r7 - 4#32) .word) :
    ∃ t, pushWord s v = .ok t ∧ Pushes s t v ∧ t.io = s.io ∧ t.pc = s.pc ∧ t.draws = s.draws :=
  ⟨_, pushWord_plain hp,
    ⟨State.reg_setReg_same s .r7 _, storedAt_store s _ v .word, sameMemoryBut_store s _ v .word,
      sameRegsBut_setReg s .r7 _, rfl, rfl, rfl, rfl, rfl⟩,
    rfl, rfl, rfl⟩

theorem pushesIo_of_io {s : State} (v : Word) (hp : IoAt s (s.reg .r7 - 4#32) .word) :
    ∃ t, pushWord s v = .ok t ∧ PushesIo s t v ∧ t.pc = s.pc ∧ t.draws = s.draws :=
  ⟨_, pushWord_io hp,
    ⟨rfl, State.reg_setReg_same s .r7 _, sameRegsBut_setReg s .r7 _, fun _ => rfl, rfl, rfl, rfl, rfl, rfl⟩,
    rfl, rfl⟩

/-- PUSH draws its word only where the data register is R7 (R170). -/
theorem pushValue_of_ne {r : Reg} (s : State) (hr : r ≠ .r7) : pushValue r s = s.reg r := if_neg hr

theorem exec_push_of_pushWord {r : Reg} {s t : State}
    (h : pushWord (s.spend (stackDraws r)) (pushValue r s) = .ok t) : exec (.push r) s = .next t :=
  finish_next.mpr h

/-- Settles O37: the draw counted before the push changes nothing that the push reads or the statement names. -/
theorem pushStoresBelow : Obligations.PushStoresBelow := by
  intro s r
  constructor
  · intro hplain
    obtain ⟨t, hpush, hpushes, hio, hpc, _⟩ :=
      pushes_of_plain (s := s.spend (stackDraws r)) (pushValue r s) hplain
    exact ⟨t, _, exec_push_of_pushWord hpush, pushValue_of_ne s, hpushes, hio, hpc⟩
  · intro hio
    obtain ⟨t, hpush, hpushes, hpc, _⟩ := pushesIo_of_io (s := s.spend (stackDraws r)) (pushValue r s) hio
    exact ⟨t, _, exec_push_of_pushWord hpush, pushValue_of_ne s, hpushes, hpc⟩

/-! ## POP -/

theorem popWord_io {s : State} (hp : IoAt s (s.reg .r7) .word) :
    popWord s = .ok (Config.ioAnswer s.io (align (s.reg .r7) .word) .word, State.setReg
      { s with io := s.io ++
        [.read (align (s.reg .r7) .word) .word (Config.ioAnswer s.io (align (s.reg .r7) .word) .word)] }
      .r7 (s.reg .r7 + 4#32)) := by
  rw [popWord, memRead_io hp]
  rfl

/-- After the pop of a word, POP writes its destination, with the word unless it is R7, and counts its draw. -/
theorem exec_pop_of_popWord {s t : State} {v : Word} (r : Reg) (h : popWord s = .ok (v, t)) :
    ∃ x k, exec (.pop r) s = .next ((t.setReg r x).spend k) ∧ (r ≠ .r7 → x = v) := by
  refine ⟨if r = .r7 then s.word else v, stackDraws r, ?_, fun hr => if_neg hr⟩
  show execPop r s = _
  rw [execPop, h]

/-- R7 raised and then a destination written: a destination other than R7 leaves R7 raised. -/
theorem regs_of_pop (s : State) (r : Reg) (x y : Word) :
    (r ≠ .r7 → ((s.setReg .r7 x).setReg r y).reg r = y ∧ ((s.setReg .r7 x).setReg r y).reg .r7 = x) ∧
      SameRegsBut2 s ((s.setReg .r7 x).setReg r y) r .r7 := by
  constructor
  · intro hr
    rw [State.reg_setReg_same, State.reg_setReg_other _ r .r7 y hr.symm, State.reg_setReg_same]
    exact ⟨rfl, rfl⟩
  · intro q hqr hq7
    rw [State.reg_setReg_other _ r q y hqr, State.reg_setReg_other s .r7 q x hq7]

/-- Settles O38: the word popped is the one stored at R7, or the environment's answer. -/
theorem popLoadsAndRaises : Obligations.PopLoadsAndRaises := by
  intro s r
  constructor
  · intro v hplain hstored
    obtain ⟨x, k, hexec, hx⟩ := exec_pop_of_popWord r (popWord_stored hplain hstored)
    obtain ⟨hwritten, hothers⟩ := regs_of_pop s r (s.reg .r7 + 4#32) x
    exact ⟨_, hexec, fun hr => hx hr ▸ hwritten hr, hothers, fun _ => rfl, rfl, rfl, rfl, rfl, rfl, rfl, rfl⟩
  · intro hio
    obtain ⟨x, k, hexec, hx⟩ := exec_pop_of_popWord r (popWord_io hio)
    obtain ⟨hwritten, hothers⟩ := regs_of_pop s r (s.reg .r7 + 4#32) x
    exact ⟨_, _, hexec, ⟨rfl, rfl, fun _ => rfl, rfl, rfl, rfl⟩, fun hr => hx hr ▸ hwritten hr, hothers, rfl, rfl, rfl⟩

/-! ## A POP after a PUSH -/

/-- Settles O39: the push stores the word where R7 then points, in memory that the pop reads, and the two moves of R7
cancel. -/
theorem popAfterPush : Obligations.PopAfterPush := by
  intro s t r q hr hq hplain hexec
  obtain ⟨t', v, hpush, hv, ⟨hsp, hstored, hmem, hregs, _, _, _, _, hparams⟩, _, _⟩ := (pushStoresBelow s r).1 hplain
  obtain rfl : t' = t := Outcome.next.inj (hpush.symm.trans hexec)
  have hplain' : PlainAt t' (t'.reg .r7) .word := by
    rw [PlainAt, hsp, hparams]
    exact hplain
  obtain ⟨u, hpop, hwritten, hregs', hmem', _⟩ := (popLoadsAndRaises t' q).1 v hplain' (hsp ▸ hstored)
  obtain ⟨hword, hraised⟩ := hwritten hq
  have hsp' : u.reg .r7 = s.reg .r7 := by rw [hraised, hsp, BitVec.sub_add_cancel]
  refine ⟨u, hpop, hword.trans (hv hr), hsp', fun p hp => ?_, fun a ha => (hmem' a).trans (hmem a ha)⟩
  by_cases hp7 : p = .r7
  · exact hp7 ▸ hsp'
  · exact (hregs' p hp hp7).trans (hregs p hp7)

end Sys2Proof.Machine
end

section
/-! SUPPORT. Words of the spec's examples of memory, control and system instructions (30_encoding.md R97). -/

namespace Sys2Proof

/-- Settles O60: each word is the encoding of its instruction, which carries no reserved condition. -/
theorem memoryAndControlWordsDecode : Obligations.MemoryAndControlWordsDecode := by
  and_intros <;> exact decode_of_encode_eq nofun rfl

end Sys2Proof
end

section
/-! SUPPORT. Jumps, calls and returns, skipped and taken (43_control.md R180 to R186, 44_system.md R202, R203), and a
return to what a push saved. -/

namespace Sys2Proof.Machine

open Sys2Proof Sys2Proof.Claims Host

/-! ## A condition that fails -/

/-- Only format C carries a condition that can fail, and tests it before anything else (30_encoding.md R93). -/
theorem exec_skipped {i : Instr} {s : State} (h : condHolds i.cond s.sr = some false) : exec i s = .next s := by
  cases i with
  | jpAddr | jpReg | jr | halt | callAddr | callReg | ret | reti | retn => exact whenHolds_skipped h
  | _ => cases h

/-- Settles O43: a condition other than the reserved one has a test, so where it does not hold it fails. -/
theorem falseConditionDoesNothing : Obligations.FalseConditionDoesNothing := by
  intro s i hwf hnot
  cases hc : condHolds i.cond s.sr with
  | none => exact absurd (condHolds_eq_none.mp hc) hwf
  | some b =>
    cases b with
    | false => exact exec_skipped hc
    | true => exact absurd hc hnot

/-- An instruction whose condition holds completes where its effect does. -/
theorem whenHolds_ok {i : Instr} {s t : State} {taken : Except Fault State} (hc : Holds i.cond s) (h : taken = .ok t) :
    whenHolds i s taken = .next t :=
  (whenHolds_taken hc).trans (finish_next.mpr h)

/-! ## Jumps -/

theorem jumps_of_exec {i : Instr} {s : State} {target : Word} (hc : Holds i.cond s)
    (h : exec i s = whenHolds i s (.ok (s.setPc target))) : Jumps i s target :=
  ⟨_, h.trans (whenHolds_ok hc rfl), rfl, fun _ => rfl, rfl, fun _ => rfl, rfl, ⟨rfl, rfl, rfl, rfl⟩, rfl⟩

/-- Settles O44: the three forms write the pc alone. -/
theorem jumpsGoToTarget : Obligations.JumpsGoToTarget :=
  fun _ _ hc => ⟨fun _ => jumps_of_exec hc rfl, fun _ => jumps_of_exec hc rfl, fun _ => jumps_of_exec hc rfl⟩

/-! ## Calls -/

theorem callOp_of_pushWord {s t : State} (target : Word) (h : pushWord s s.pc = .ok t) :
    callOp target s = .ok (t.setPc target) := by
  rw [callOp, h]

section
variable {i : Instr} {s : State} {target : Word}

theorem calls_of_exec (hc : Holds i.cond s) (h : exec i s = whenHolds i s (callOp target s))
    (hp : PlainAt s (s.reg .r7 - 4#32) .word) : Calls i s target := by
  obtain ⟨t, hpush, ⟨hsp, hstored, hmem, hregs, hsr, hcontrol⟩, hio, _, hdraws⟩ := pushes_of_plain s.pc hp
  exact ⟨t.setPc target, h.trans (whenHolds_ok hc (callOp_of_pushWord target hpush)), rfl, hsp, hstored, hmem, hregs, hsr,
    hio, hcontrol, hdraws⟩

theorem callsIo_of_exec (hc : Holds i.cond s) (h : exec i s = whenHolds i s (callOp target s))
    (hp : IoAt s (s.reg .r7 - 4#32) .word) :
    ∃ t, exec i s = .next t ∧ PushesIo s t s.pc ∧ t.pc = target := by
  obtain ⟨t, hpush, hpushes, _⟩ := pushesIo_of_io s.pc hp
  exact ⟨t.setPc target, h.trans (whenHolds_ok hc (callOp_of_pushWord target hpush)), hpushes, rfl⟩

end

/-- Settles O45: both forms push the pc and go to a target read in the state before the push. -/
theorem callCalls : Obligations.CallCalls :=
  fun _ _ hc =>
    ⟨fun hp => ⟨fun _ => calls_of_exec hc rfl hp, fun _ => calls_of_exec hc rfl hp⟩,
      fun hp => ⟨fun _ => callsIo_of_exec hc rfl hp, fun _ => callsIo_of_exec hc rfl hp⟩⟩

/-! ## Returns -/

/-- The state after a pop of the pc, whatever the read has recorded. -/
theorem returns_popped (s : State) (io : List Config.IoEvent) (v : Word) :
    Returns s ((State.setReg { s with io := io } .r7 (s.reg .r7 + 4#32)).setPc v) v :=
  ⟨rfl, State.reg_setReg_same s .r7 _, sameRegsBut_setReg s .r7 _, fun _ => rfl, rfl, rfl, rfl, rfl⟩

theorem returns_of_popPc_stored {s : State} {v : Word} (hp : PlainAt s (s.reg .r7) .word)
    (hs : StoredAt s (s.reg .r7) .word v) :
    ∃ t, popPc s = .ok t ∧ Returns s t v ∧ t.sr = s.sr ∧ t.iif = s.iif ∧ t.io = s.io :=
  ⟨_, popPc_stored hp hs, returns_popped s s.io v, rfl, rfl, rfl⟩

theorem popPc_of_popWord {s t : State} {v : Word} (h : popWord s = .ok (v, t)) : popPc s = .ok (t.setPc v) := by
  rw [popPc, h]

theorem returns_of_popPc_io {s : State} (hp : IoAt s (s.reg .r7) .word) :
    ∃ t v, popPc s = .ok t ∧ PopsIo s t v ∧ Returns s t v ∧ t.sr = s.sr ∧ t.iif = s.iif :=
  ⟨_, _, popPc_of_popWord (popWord_io hp), ⟨rfl, rfl, fun _ => rfl, rfl, rfl, rfl⟩, returns_popped s _ _, rfl, rfl⟩

section
variable {c : Cond} {s t : State}

theorem exec_ret_of_popPc (hc : Holds c s) (h : popPc s = .ok t) : exec (.ret c) s = .next t :=
  whenHolds_ok (i := .ret c) hc h

theorem leaveInterrupt_of_popPc (l : Level) (h : popPc s = .ok t) :
    leaveInterrupt s l = .ok (t.setEnable l true) := by
  rw [leaveInterrupt, h]

theorem exec_reti_of_popPc (hc : Holds c s) (h : popPc s = .ok t) :
    exec (.reti c) s = .next (t.setEnable .int0 true) :=
  whenHolds_ok (i := .reti c) hc (leaveInterrupt_of_popPc .int0 h)

theorem exec_retn_of_popPc (hc : Holds c s) (h : popPc s = .ok t) :
    exec (.retn c) s = .next (t.setEnable .nmi true) :=
  whenHolds_ok (i := .retn c) hc (leaveInterrupt_of_popPc .nmi h)

end

/-- Settles O46: each return pops the pc, and then RETI and RETN set the enable of their level, which the pop left
alone. -/
theorem returnsPopPc : Obligations.ReturnsPopPc := by
  intro s c hc
  constructor
  · intro v hplain hstored
    obtain ⟨t, hpop, hreturns, hsr, hiif, hio⟩ := returns_of_popPc_stored hplain hstored
    have hgie : { t.sr with gie := true } = { s.sr with gie := true } := by rw [hsr]
    exact ⟨⟨t, exec_ret_of_popPc hc hpop, hreturns, hsr, hiif, hio⟩,
      ⟨_, exec_reti_of_popPc hc hpop, hreturns, hgie, hiif, hio⟩,
      ⟨_, exec_retn_of_popPc hc hpop, hreturns, hsr, rfl, hio⟩⟩
  · intro hplace
    obtain ⟨t, v, hpop, hpops, hreturns, hsr, hiif⟩ := returns_of_popPc_io hplace
    have hgie : { t.sr with gie := true } = { s.sr with gie := true } := by rw [hsr]
    exact ⟨⟨t, v, exec_ret_of_popPc hc hpop, hpops, hreturns, hsr, hiif⟩,
      ⟨_, v, exec_reti_of_popPc hc hpop, hpops, hreturns, hgie, hiif⟩,
      ⟨_, v, exec_retn_of_popPc hc hpop, hpops, hreturns, hsr, rfl⟩⟩

/-! ## A return after a push -/

/-- The word a push stored in plain memory stands where R7 then points, in memory that a read finds. -/
theorem stackTop_of_pushes {s t : State} {v : Word} (hp : PlainAt s (s.reg .r7 - 4#32) .word) (h : Pushes s t v) :
    PlainAt t (t.reg .r7) .word ∧ StoredAt t (t.reg .r7) .word v := by
  obtain ⟨hsp, hstored, _, _, _, _, _, _, hparams⟩ := h
  rw [PlainAt, hparams, hsp]
  exact ⟨hp, hstored⟩

/-- A return in the state that a push left restores the registers: R7 goes up by what it went down. -/
theorem sameRegs_of_pushes_returns {s t u : State} {v w : Word} (hpush : Pushes s t v) (hret : Returns t u w) :
    SameRegs s u := by
  obtain ⟨hdown, _, _, hpushRegs, _⟩ := hpush
  obtain ⟨_, hup, hretRegs, _⟩ := hret
  intro r
  by_cases h7 : r = .r7
  · rw [h7, hup, hdown, BitVec.sub_add_cancel]
  · exact (hretRegs r h7).trans (hpushRegs r h7)

theorem popPc_after_push {s t : State} {v : Word} (hp : PlainAt s (s.reg .r7 - 4#32) .word) (h : Pushes s t v) :
    ∃ u, popPc t = .ok u ∧ u.pc = v ∧ SameRegs s u ∧ u.sr = s.sr ∧ SameMemoryBut s u (s.reg .r7 - 4#32) .word := by
  obtain ⟨hplain, hstored⟩ := stackTop_of_pushes hp h
  obtain ⟨u, hpop, hreturns, hsr, _⟩ := returns_of_popPc_stored hplain hstored
  have hregs := sameRegs_of_pushes_returns h hreturns
  obtain ⟨_, _, hpushMem, _, hpushSr, _⟩ := h
  obtain ⟨hpc, _, _, hretMem, _⟩ := hreturns
  exact ⟨u, hpop, hpc, hregs, hsr.trans hpushSr, fun a ha => (hretMem a).trans (hpushMem a ha)⟩

/-- A call that completes in `t` has pushed the pc there. -/
theorem pushes_of_calls {i : Instr} {s t : State} {target : Word} (h : Calls i s target) (hexec : exec i s = .next t) :
    Pushes s t s.pc := by
  obtain ⟨t', hexec', _, hsp, hstored, hmem, hregs, hsr, _, hcontrol, _⟩ := h
  obtain rfl : t' = t := Outcome.next.inj (hexec'.symm.trans hexec)
  exact ⟨hsp, hstored, hmem, hregs, hsr, hcontrol⟩

/-- Settles O47: either form of CALL has pushed the pc, which the RET pops. -/
theorem retAfterCall : Obligations.RetAfterCall := by
  intro s t c hc hplain hcall
  obtain ⟨haddr, hreg⟩ := (callCalls s c hc).1 hplain
  have hpushes : Pushes s t s.pc := by
    rcases hcall with ⟨i, hexec⟩ | ⟨r, hexec⟩
    · exact pushes_of_calls (haddr i) hexec
    · exact pushes_of_calls (hreg r) hexec
  obtain ⟨u, hpop, hback⟩ := popPc_after_push hplain hpushes
  exact ⟨u, exec_ret_of_popPc rfl hpop, hback⟩

end Sys2Proof.Machine
end

section
/-! SUPPORT. HALT and the machine it stops (44_system.md R200, R201). -/

namespace Sys2Proof.Machine

open Sys2Proof Sys2Proof.Claims Host

/-- The step tests the halted flag before the interrupts and the fetch. -/
theorem step_halted {s : State} (h : s.halted = true) : step s = .next s :=
  if_pos h

/-- A state that steps to itself is where a run of any length from it ends. -/
theorem run_eq_next_of_step_eq_next {M : Core} {s : M.State} (h : M.step s = .next s) (k : Nat) :
    M.run k s = .next s := by
  induction k with
  | zero => rfl
  | succ k ih => rw [Core.run, h]; exact ih

theorem exec_halt_of_holds {c : Cond} {s : State} (hc : Holds c s) :
    exec (.halt c) s = .next { s with halted := true } :=
  whenHolds_ok (i := .halt c) hc rfl

/-- A halted machine stays as it is, for any number of steps. -/
theorem run_halted {s : State} (h : s.halted = true) (k : Nat) : core.run k s = .next s :=
  run_eq_next_of_step_eq_next (M := core) (s := s) (step_halted h) k

/-- Settles O48: HALT writes the halted flag alone, and a state with that flag steps to itself. -/
theorem haltStops : Obligations.HaltStops :=
  fun s _ hc =>
    ⟨_, exec_halt_of_holds hc, rfl, s.reg_withHalted true, rfl, rfl, fun _ => rfl, rfl, rfl, rfl, rfl, rfl, run_halted rfl⟩

end Sys2Proof.Machine
end

section
/-! SUPPORT. The assembler's 20-bit field (45_assembler.md R211, R215): which values it takes, and that the word a field
sign-extends to is the value modulo 2^32. -/

namespace Sys2Proof.Asm

open Sys2Proof Sys2Proof.Machine Sys2Proof.Claims Host

/-! ## The range of the field -/

/-- The signed values of a 20-bit field (R215). -/
def FieldSigned (v : Int) : Prop := -524288 ≤ v ∧ v ≤ 524287

/-- The 32-bit addresses that a field with its top bit set sign-extends to (R215). -/
def FieldHighAddress (v : Int) : Prop := 0xFFF80000 ≤ v ∧ v ≤ 0xFFFFFFFF

theorem ite_ok_error_eq_ok_iff {ε α : Type} {p : Prop} [Decidable p] {x y : α} {e : ε} :
    (if p then Except.ok x else .error e) = .ok y ↔ p ∧ x = y := by
  split <;> simp [*]

theorem field20_eq_ok_iff {v : Int} {f : Imm20} :
    field20 v = .ok f ↔ (FieldSigned v ∨ FieldHighAddress v) ∧ BitVec.ofInt 20 v = f :=
  ite_ok_error_eq_ok_iff

/-- JR's field holds the signed reading of the 32-bit distance from the next instruction to the target (43_control.md R183). -/
theorem relField_eq_ok_iff {a : Nat} {target : Int} {f : Imm20} :
    relField a target = .ok f ↔
      ((0 ≤ target ∧ target < 2 ^ 32) ∧ FieldSigned (BitVec.ofInt 32 (target - (a + 4))).toInt) ∧
        BitVec.ofInt 20 (BitVec.ofInt 32 (target - (a + 4))).toInt = f :=
  ite_ok_error_eq_ok_iff

/-! ## Sign extension -/

theorem toInt_signExtend_field (f : Imm20) : (f.signExtend 32).toInt = f.toInt :=
  BitVec.toInt_signExtend_of_le (by decide)

theorem fieldSigned_toInt_signExtend (f : Imm20) : FieldSigned (f.signExtend 32).toInt := by
  have hlow := f.le_toInt
  have hhigh := f.toInt_lt
  rw [FieldSigned, toInt_signExtend_field]
  omega

/-- Read as an address, a sign-extended field is a small value or lies at the top of the address space. -/
theorem toNat_signExtend_field_range (f : Imm20) :
    FieldSigned (f.signExtend 32).toNat ∨ FieldHighAddress (f.signExtend 32).toNat := by
  have hsigned := fieldSigned_toInt_signExtend f
  have hread := toInt_eq_ite (f.signExtend 32)
  unfold FieldSigned FieldHighAddress at *
  split at hread <;> omega

/-- On the values the field takes, its sign extension is the value modulo 2^32: a high address differs from its signed
reading by 2^32, a multiple of 2^20. -/
theorem signExtend_ofInt {v : Int} (h : FieldSigned v ∨ FieldHighAddress v) :
    (BitVec.ofInt 20 v).signExtend 32 = BitVec.ofInt 32 v := by
  apply BitVec.toInt_inj.mp
  rw [toInt_signExtend_field, BitVec.toInt_ofInt, BitVec.toInt_ofInt, Int.bmod_def, Int.bmod_def]
  rcases h with h | h <;> obtain ⟨hlow, hhigh⟩ := h <;> omega

theorem toNat_ofInt_of_address {v : Int} (h0 : 0 ≤ v) (h1 : v < 2 ^ 32) : ((BitVec.ofInt 32 v).toNat : Int) = v := by
  rw [BitVec.toNat_ofInt]
  omega

/-- Settles O58: the field's sign extension is the value modulo 2^32, read as signed in the low range and as an address in
the high one, and neither reading of a sign-extended field leaves these ranges. -/
theorem assemblerFieldRange : Obligations.AssemblerFieldRange := by
  intro v
  constructor
  · intro f hf
    obtain ⟨hrange, rfl⟩ := field20_eq_ok_iff.mp hf
    rw [signExtend_ofInt hrange]
    rcases hrange with ⟨hlow, hhigh⟩ | ⟨hlow, hhigh⟩
    · exact .inl (BitVec.toInt_ofInt_eq_self (by decide) (by omega) (by omega))
    · exact .inr (toNat_ofInt_of_address (by omega) (by omega))
  · rintro ⟨f, rfl | rfl⟩
    · exact ⟨_, field20_eq_ok_iff.mpr ⟨.inl (fieldSigned_toInt_signExtend f), rfl⟩⟩
    · exact ⟨_, field20_eq_ok_iff.mpr ⟨toNat_signExtend_field_range f, rfl⟩⟩

/-! ## The offset of a JR -/

/-- The offset the assembler gives a JR, added to the address after the JR, is the target. -/
theorem next_add_relField {a : Nat} {target : Int} {f : Imm20} (h : relField a target = .ok f) :
    BitVec.ofNat 32 (a + 4) + f.signExtend 32 = BitVec.ofInt 32 target := by
  obtain ⟨⟨_, hd⟩, rfl⟩ := relField_eq_ok_iff.mp h
  calc BitVec.ofNat 32 (a + 4) + (BitVec.ofInt 20 (BitVec.ofInt 32 (target - (a + 4))).toInt).signExtend 32
      = BitVec.ofInt 32 ((a + 4 : Nat) : Int) + BitVec.ofInt 32 (target - (a + 4)) := by
        rw [signExtend_ofInt (.inl hd), BitVec.ofInt_toInt, BitVec.ofInt_natCast]
    _ = BitVec.ofInt 32 target := by
        rw [← BitVec.ofInt_add]
        congr 1
        omega

/-- Settles O59: the taken JR adds its sign-extended offset to the pc, which is the address after it. -/
theorem assemblerRelativeField : Obligations.AssemblerRelativeField := by
  intro a target f s hf hpc
  obtain ⟨_, _, hjr⟩ := jumpsGoToTarget s .always rfl
  obtain ⟨t, hexec, htarget, _⟩ := hjr f
  obtain ⟨⟨⟨h0, h1⟩, _⟩, _⟩ := relField_eq_ok_iff.mp hf
  refine ⟨t, hexec, ?_⟩
  rw [htarget, hpc, next_add_relField hf]
  exact toNat_ofInt_of_address h0 h1

end Sys2Proof.Asm
end

section
/-! SUPPORT. Entering an interrupt and returning from it (60_exceptions.md R236 to R239, R242, 44_system.md R202, R203):
the push, the search for the handler, and the return that finds what the entry saved. -/

namespace Sys2Proof.Machine

open Sys2Proof Sys2Proof.Claims Host

/-- Settles O12: the halted flag is tested first. -/
theorem haltedStepChangesNothing : Obligations.HaltedStepChangesNothing :=
  fun _ h => step_halted h

/-! ## The frame of a push -/

/-- What a push changes and leaves alone apart from its access, the same for plain memory and `IO_REGION`. -/
def PushFrame (s t : State) : Prop :=
  t.reg .r7 = s.reg .r7 - 4#32 ∧ SameRegsBut s t .r7 ∧ t.sr = s.sr ∧ SameControl s t ∧ t.draws = s.draws

theorem pushFrame_of_pushes {s t : State} {v : Word} (h : Pushes s t v) (hdraws : t.draws = s.draws) : PushFrame s t := by
  obtain ⟨hsp, _, _, hregs, hsr, hcontrol⟩ := h
  exact ⟨hsp, hregs, hsr, hcontrol, hdraws⟩

theorem pushFrame_of_pushesIo {s t : State} {v : Word} (h : PushesIo s t v) (hdraws : t.draws = s.draws) :
    PushFrame s t := by
  obtain ⟨_, hsp, hregs, _, hsr, hcontrol⟩ := h
  exact ⟨hsp, hregs, hsr, hcontrol, hdraws⟩

theorem PushFrame.params {s t : State} (h : PushFrame s t) : t.params = s.params := by
  obtain ⟨_, _, _, ⟨_, _, _, hparams⟩, _⟩ := h
  exact hparams

/-- A store of one word leaves every other aligned word as it was. -/
theorem storedAt_of_sameMemoryBut {s t : State} {a b v : Word} (h : SameMemoryBut s t a .word)
    (hne : align a .word ≠ align b .word) (hs : StoredAt s b .word v) : StoredAt t b .word v := by
  intro k hk
  have ha := align_mod a .word
  have hb := align_mod b .word
  have hne' : (align a .word).toNat ≠ (align b .word).toNat := fun e => hne (BitVec.eq_of_toNat_eq e)
  simp only [Width.bytes] at ha hb hk
  rw [h _ (by simp only [Width.bytes]; omega), hs k hk]

/-- The word at `b` after the push of `v`: the word pushed where the push went there, else the word from before. -/
theorem storedAt_of_pushes {s t : State} {v w b : Word} (h : Pushes s t v)
    (hw : if align (s.reg .r7 - 4#32) .word = align b .word then w = v else StoredAt s b .word w) :
    StoredAt t b .word w := by
  obtain ⟨_, hstored, hmem, _⟩ := h
  split at hw
  · next heq =>
    subst hw
    rwa [StoredAt, heq] at hstored
  · next hne => exact storedAt_of_sameMemoryBut hmem hne hw

/-! ## Entry -/

/-- An entry whose push and search for the handler succeed. -/
theorem enterInterrupt_of_push {s t u : State} {l : Level} {h : Word}
    (hpush : pushWord (s.setEnable l false) s.pc = .ok t) (hhandler : handlerAddress t l = .ok (h, u)) :
    enterInterrupt s l = .ok (u.setPc h) := by
  rw [enterInterrupt, hpush]
  dsimp only
  rw [hhandler]

section
variable {s t : State}

/-- The step that takes NMI: after the push nothing can stop it, the handler's address being a parameter. -/
theorem step_enters_nmi (hrun : s.halted = false) (hnmi : s.sample.nmi = true) (hiif : s.iif = true)
    (hpush : pushWord (s.passBoundary.setEnable .nmi false) s.pc = .ok t)
    (hframe : PushFrame (s.passBoundary.setEnable .nmi false) t) :
    step s = .next (t.setPc t.params.nmiVector) ∧ EntersNmi s (t.setPc t.params.nmiVector) := by
  have henter : enterInterrupt s.passBoundary .nmi = .ok (t.setPc t.params.nmiVector) :=
    enterInterrupt_of_push (s := s.passBoundary) hpush rfl
  have hvector : t.params.nmiVector = s.params.nmiVector := congrArg Config.Params.nmiVector hframe.params
  obtain ⟨hsp, hregs, hsr, ⟨hcleared, hhalted, hlines, hparams⟩, hdraws⟩ := hframe
  exact ⟨(step_taken hrun (takenInterrupt_nmi hnmi hiif)).trans (finish_next.mpr henter),
    hcleared, hsp, hvector, hregs, hsr, hhalted.trans hrun, hparams, hdraws, hlines⟩

/-- The step that takes INT0, whatever the read of the vector word adds to the record. -/
theorem step_enters_int0 {h : Word} {io : List Config.IoEvent} (htakes : TakesInt0 s)
    (hpush : pushWord (s.passBoundary.setEnable .int0 false) s.pc = .ok t)
    (hframe : PushFrame (s.passBoundary.setEnable .int0 false) t)
    (hvector : handlerAddress t .int0 = .ok (h, { t with io := io })) :
    step s = .next (State.setPc { t with io := io } h) ∧ EntersInt0 s (State.setPc { t with io := io } h) h := by
  obtain ⟨hrun, hnmi, hline, hgie⟩ := htakes
  have henter := enterInterrupt_of_push (s := s.passBoundary) hpush hvector
  obtain ⟨hsp, hregs, hsr, ⟨hiif, hhalted, hlines, hparams⟩, hdraws⟩ := hframe
  exact ⟨(step_taken hrun (takenInterrupt_int0 hnmi hline hgie)).trans (finish_next.mpr henter),
    hsr, hsp, rfl, hregs, hiif, hhalted.trans hrun, hparams, hdraws, hlines⟩

/-- A defined vector word in plain memory; the record is kept, written as an update of it like that of the next lemma. -/
theorem handlerAddress_int0_stored {h : Word} (hparams : t.params = s.params) (hp : PlainAt s 8#32 .word)
    (hs : StoredAt t 8#32 .word h) : handlerAddress t .int0 = .ok (h, { t with io := t.io }) :=
  memRead_stored (by rwa [PlainAt, hparams]) hs

/-- A vector word in `IO_REGION`: the environment's answer, the access recorded. -/
theorem handlerAddress_int0_io {h : Word} (hparams : t.params = s.params) (hp : IoAt s 8#32 .word)
    (hh : h = Config.ioAnswer t.io 8#32 .word) :
    handlerAddress t .int0 = .ok (h, { t with io := t.io ++ [.read 8#32 .word h] }) := by
  subst hh
  exact memRead_io (by rwa [IoAt, hparams])

end

/-- Settles O15: the two ways the push can be answered. -/
theorem nmiEntry : Obligations.NmiEntry := by
  intro s hrun hnmi hiif
  constructor
  · intro hplain
    obtain ⟨t, hpush, hpushes, hio, _, hdraws⟩ :=
      pushes_of_plain (s := s.passBoundary.setEnable .nmi false) s.pc hplain
    obtain ⟨hstep, henters⟩ := step_enters_nmi hrun hnmi hiif hpush (pushFrame_of_pushes hpushes hdraws)
    obtain ⟨_, hstored, hmem, _⟩ := hpushes
    exact ⟨_, hstep, henters, hstored, hmem, hio⟩
  · intro hplace
    obtain ⟨t, hpush, hpushes, _, hdraws⟩ :=
      pushesIo_of_io (s := s.passBoundary.setEnable .nmi false) s.pc hplace
    obtain ⟨hstep, henters⟩ := step_enters_nmi hrun hnmi hiif hpush (pushFrame_of_pushesIo hpushes hdraws)
    obtain ⟨hio, _, _, hmem, _⟩ := hpushes
    exact ⟨_, hstep, henters, hmem, hio⟩

/-- INT0 entry with the stack in plain memory, whatever answers the read of the vector word. -/
theorem int0Entry_of_plainStack {s : State} {h : Word} (htakes : TakesInt0 s)
    (hplain : PlainAt s (s.reg .r7 - 4#32) .word) :
    ∃ t, Pushes (s.passBoundary.setEnable .int0 false) t s.pc ∧ t.io = s.io ∧ t.params = s.params ∧
      ∀ io, handlerAddress t .int0 = .ok (h, { t with io := io }) →
        ∃ u, step s = .next u ∧ EntersInt0 s u h ∧ StoredAt u (s.reg .r7 - 4#32) .word s.pc ∧
          SameMemoryBut s u (s.reg .r7 - 4#32) .word ∧ u.io = io := by
  obtain ⟨t, hpush, hpushes, hio, _, hdraws⟩ :=
    pushes_of_plain (s := s.passBoundary.setEnable .int0 false) s.pc hplain
  have hframe := pushFrame_of_pushes hpushes hdraws
  refine ⟨t, hpushes, hio, hframe.params, fun io hvector => ?_⟩
  obtain ⟨hstep, henters⟩ := step_enters_int0 htakes hpush hframe hvector
  obtain ⟨_, hstored, hmem, _⟩ := hpushes
  exact ⟨_, hstep, henters, hstored, hmem, rfl⟩

/-- INT0 entry with the stack in `IO_REGION`, whatever answers the read of the vector word. -/
theorem int0Entry_of_ioStack {s : State} {h : Word} (htakes : TakesInt0 s) (hplace : IoAt s (s.reg .r7 - 4#32) .word) :
    ∃ t, PushesIo (s.passBoundary.setEnable .int0 false) t s.pc ∧ t.params = s.params ∧
      ∀ io, handlerAddress t .int0 = .ok (h, { t with io := io }) →
        ∃ u, step s = .next u ∧ EntersInt0 s u h ∧ SameMemory s u ∧ u.io = io := by
  obtain ⟨t, hpush, hpushes, _, hdraws⟩ :=
    pushesIo_of_io (s := s.passBoundary.setEnable .int0 false) s.pc hplace
  have hframe := pushFrame_of_pushesIo hpushes hdraws
  refine ⟨t, hpushes, hframe.params, fun io hvector => ?_⟩
  obtain ⟨hstep, henters⟩ := step_enters_int0 htakes hpush hframe hvector
  obtain ⟨_, _, _, hmem, _⟩ := hpushes
  exact ⟨_, hstep, henters, hmem, rfl⟩

/-- Settles O16: the two ways the push can be answered, and under each the two for the vector word. -/
theorem int0Entry : Obligations.Int0Entry := by
  intro s h htakes
  refine ⟨fun hstack hplain hword => ?_, fun hstack hplain hword => ?_, fun hstack hio hh => ?_,
    fun hstack hio hh => ?_⟩
  · obtain ⟨t, hpushes, hrecord, hparams, henter⟩ := int0Entry_of_plainStack htakes hstack
    have hvector : StoredAt t 8#32 .word h := storedAt_of_pushes hpushes hword
    exact hrecord ▸ henter _ (handlerAddress_int0_stored hparams hplain hvector)
  · obtain ⟨t, ⟨hrecord, _, _, hmem, _⟩, hparams, henter⟩ := int0Entry_of_ioStack htakes hstack
    have hvector : StoredAt t 8#32 .word h := fun k hk => (hmem _).trans (hword k hk)
    obtain ⟨u, hstep, henters, hsame, hio⟩ := henter _ (handlerAddress_int0_stored hparams hplain hvector)
    exact ⟨u, hstep, henters, hsame, hio.trans hrecord⟩
  · obtain ⟨t, _, hrecord, hparams, henter⟩ := int0Entry_of_plainStack htakes hstack
    rw [← hrecord] at hh ⊢
    exact henter _ (handlerAddress_int0_io hparams hio hh)
  · obtain ⟨t, ⟨hrecord, _⟩, hparams, henter⟩ := int0Entry_of_ioStack htakes hstack
    have hanswer : h = Config.ioAnswer t.io 8#32 .word := hh.trans (congrArg (Config.ioAnswer · _ _) hrecord.symm)
    obtain ⟨u, hstep, henters, hsame, hio'⟩ := henter _ (handlerAddress_int0_io hparams hio hanswer)
    exact ⟨u, hstep, henters, hsame, by rw [hio', hrecord, List.append_assoc]; rfl⟩

/-! ## A return after an entry -/

/-- The search for the handler changes nothing but the record, and that for NMI not even the record. -/
theorem handlerAddress_state {s t : State} {l : Level} {h : Word} (hh : handlerAddress s l = .ok (h, t)) :
    ∃ e, t = { s with io := s.io ++ e } ∧ (l = .nmi → e = []) := by
  cases l with
  | int0 =>
    obtain ⟨e, rfl⟩ := memRead_state hh
    exact ⟨e, rfl, nofun⟩
  | nmi =>
    cases hh
    exact ⟨[], by simp, fun _ => rfl⟩

/-- An entry with its stack in plain memory is the push of the pc, but for the pc and what the vector read records. -/
theorem pushes_of_enterInterrupt {s t : State} {l : Level} (h : enterInterrupt s l = .ok t)
    (hp : PlainAt (s.setEnable l false) ((s.setEnable l false).reg .r7 - 4#32) .word) :
    Pushes (s.setEnable l false) t s.pc ∧ (l = .nmi → t.io = s.io) := by
  obtain ⟨u, v, x, hpush, hhandler, rfl⟩ := enterInterrupt_cases h
  obtain ⟨u', hpush', hpushes, hio, _⟩ := pushes_of_plain s.pc hp
  obtain rfl : u' = u := Except.ok.inj (hpush'.symm.trans hpush)
  obtain ⟨e, rfl, he⟩ := handlerAddress_state hhandler
  refine ⟨hpushes, fun hl => ?_⟩
  rw [State.setPc_io, he hl, List.append_nil, hio, State.setEnable_io]

/-- A return in the state that a push left: it undoes the push, all but the word stored. -/
theorem resumes_of_pushes_returns {s t u : State} {v : Word} (hpush : Pushes s t v) (hret : Returns t u v) :
    u.pc = v ∧ SameRegs s u ∧ SameMemoryBut s u (s.reg .r7 - 4#32) .word ∧ u.halted = s.halted := by
  have hregs := sameRegs_of_pushes_returns hpush hret
  obtain ⟨_, _, hbut, _, _, ⟨_, hhalted, _⟩⟩ := hpush
  obtain ⟨hpc, _, _, hmem, hhalted', _⟩ := hret
  exact ⟨hpc, hregs, fun a ha => (hmem a).trans (hbut a ha), hhalted'.trans hhalted⟩

/-- Settles O17: RETI pops the pc the entry pushed and sets the GIE it cleared. -/
theorem int0EntryThenReti : Obligations.Int0EntryThenReti := by
  intro s t henter hgie hplain
  obtain ⟨hpushes, _⟩ := pushes_of_enterInterrupt henter hplain
  obtain ⟨hplain', hstored⟩ := stackTop_of_pushes (s := s.setEnable .int0 false) hplain hpushes
  obtain ⟨_, ⟨u, hexec, hreturns, hsr, hiif, _⟩, _⟩ := (returnsPopPc t .always rfl).1 s.pc hplain' hstored
  obtain ⟨hpc, hregs, hmem, hhalted⟩ := resumes_of_pushes_returns hpushes hreturns
  obtain ⟨_, _, _, _, hcleared, ⟨hiif', _⟩⟩ := hpushes
  have hrestored : u.sr = s.sr := by
    rw [hsr, hcleared, State.setEnable_int0_sr, ← hgie]
  exact ⟨u, hexec, hpc, hregs, hrestored, hiif.trans hiif', hmem, hhalted⟩

/-- Settles O18: RETN pops the pc the entry pushed and sets the IIF it cleared. -/
theorem nmiEntryThenRetn : Obligations.NmiEntryThenRetn := by
  intro s t henter hiif hplain
  obtain ⟨hpushes, hrecord⟩ := pushes_of_enterInterrupt henter hplain
  obtain ⟨hplain', hstored⟩ := stackTop_of_pushes (s := s.setEnable .nmi false) hplain hpushes
  obtain ⟨_, _, ⟨u, hexec, hreturns, hsr, hset, hio⟩⟩ := (returnsPopPc t .always rfl).1 s.pc hplain' hstored
  obtain ⟨hpc, hregs, hmem, hhalted⟩ := resumes_of_pushes_returns hpushes hreturns
  obtain ⟨_, _, _, _, hsr', _⟩ := hpushes
  exact ⟨u, hexec, hpc, hregs, hsr.trans hsr', hset.trans hiif.symm, hmem, hio.trans (hrecord rfl), hhalted⟩

end Sys2Proof.Machine
end

section
/-! SUPPORT. The default `IO_REGION` and the device registers in it (20_memory.md R64, 60_exceptions.md R252 to R254). -/

namespace Sys2Proof.Machine

open Sys2Proof

/-- An access all of whose bytes are in `IO_REGION` is the environment's. -/
theorem accessKind_io_of_bytes {map : List Config.Region} {a : Word} {w : Width}
    (h : ∀ k < w.bytes, regionAt map (a.toNat + k) = some .io) : accessKind map a w = some .io := by
  have hkinds : (List.range w.bytes).map (fun k => regionAt map (a.toNat + k)) = List.replicate w.bytes (some .io) :=
    List.eq_replicate_iff.mpr ⟨by simp, by simpa using h⟩
  rw [accessKind, hkinds]
  cases w <;> rfl

theorem regionAt_default_io {a : Nat} (hlow : 0x40000000 ≤ a) (hhigh : a ≤ 0xFFFFFFFF) :
    regionAt defaultMemMap a = some .io := by
  have hplain : ¬ a ≤ 0x3FFFFFFF := by omega
  simp [regionAt, defaultMemMap, hplain, hlow, hhigh]

theorem DeviceReg.address_high (d : DeviceReg) : 0xFFFF0000 ≤ d.address.toNat := by
  cases d <;> decide

/-- Settles O57: alignment takes less than 4 off an address, and no aligned access leaves the address space at the top. -/
theorem deviceRegistersInIoRegion : Obligations.DeviceRegistersInIoRegion := by
  intro d w
  have hdevice := d.address_high
  have halign := toNat_align d.address w
  have hend := align_end d.address w
  have hlow : 0x40000000 ≤ (align d.address w).toNat := by
    cases w <;> simp only [Width.bytes] at halign <;> omega
  exact accessKind_io_of_bytes fun k hk => regionAt_default_io (by omega) (by omega)

end Sys2Proof.Machine
end

section
/-! SUPPORT. What memory reads after a run of writes, and so what the loaded image leaves there
(70_reset_and_hazards.md R271, 45_assembler.md R216). -/

namespace Sys2Proof.Machine

open Sys2Proof Host

/-- A run of writes leaves an address that none of them names as it was. -/
theorem Memory.read_writeAll_of_not_mem (m : Memory) {cells : List Cell} {a : Nat} (h : ∀ b, (a, b) ∉ cells) :
    (m.writeAll cells).read a = m.read a := by
  induction cells generalizing m with
  | nil => rfl
  | cons c rest ih =>
    have hne : a ≠ c.1 := fun e => h c.2 (e ▸ List.mem_cons_self)
    have hrest : ∀ b, (a, b) ∉ rest := fun b hb => h b (List.mem_cons_of_mem c hb)
    calc ((m.write c.1 c.2).writeAll rest).read a
      _ = (m.write c.1 c.2).read a := ih _ hrest
      _ = m.read a := Memory.read_write_other m c.1 a c.2 hne

theorem Memory.writeAll_append (m : Memory) (cells more : List Cell) :
    m.writeAll (cells ++ more) = (m.writeAll cells).writeAll more :=
  List.foldl_append

/-- Of the writes of one address in a run the last counts. -/
theorem Memory.read_writeAll_last (m : Memory) (before : List Cell) {rest : List Cell} {a : Nat} (b : Byte)
    (h : ∀ c, (a, c) ∉ rest) : (m.writeAll (before ++ (a, b) :: rest)).read a = some b := by
  rw [Memory.writeAll_append]
  calc (((m.writeAll before).write a b).writeAll rest).read a
    _ = ((m.writeAll before).write a b).read a := Memory.read_writeAll_of_not_mem _ h
    _ = some b := Memory.read_write_same _ a b

theorem boot_mem (params : Config.Params) (image : List Cell) (lines : Lines) :
    (boot params image lines).mem = Memory.writeAll [] image := rfl

/-- Settles O8: the image is a run of writes to an empty memory, which is canonical and defines no byte. -/
theorem bootMemoryIsImage : Obligations.BootMemoryIsImage := by
  intro params image lines
  rw [boot_mem]
  refine ⟨Memory.wf_writeAll [] image rfl, fun a => Memory.read_writeAll_of_not_mem [], ?_⟩
  rintro before rest a b rfl hlast
  exact Memory.read_writeAll_last [] before b hlast

end Sys2Proof.Machine
end

section
/-! SUPPORT. Where a read that stops makes each operation stop, and the reads of plain memory that an undefined byte stops
(70_reset_and_hazards.md R271, 60_exceptions.md R238, R248). -/

namespace Sys2Proof.Machine

open Sys2Proof Sys2Proof.Claims Host

section
variable {s t : State} {f : Fault}

/-! ## An operation whose read stops -/

theorem fetch_of_memRead_error (ha : s.pc &&& 3#32 = 0#32 ∨ s.params.fetchMode = .mask)
    (h : memRead s s.pc .word = .error f) : fetch s = .error f := by
  rw [fetch_eq ha, h]

theorem loadOp_of_memRead_error {r : Reg} {ea : Word} {w : Width} (h : memRead s ea w = .error f) :
    loadOp r ea w s = .error f := by
  rw [loadOp, h]

theorem popWord_of_memRead_error (h : memRead s (s.reg .r7) .word = .error f) : popWord s = .error f := by
  rw [popWord, h]

theorem exec_pop_of_popWord_error (r : Reg) (h : popWord s = .error f) : exec (.pop r) s = .fault f := by
  show execPop r s = _
  rw [execPop, h]

theorem popPc_of_popWord_error (h : popWord s = .error f) : popPc s = .error f := by
  rw [popPc, h]

theorem leaveInterrupt_of_popPc_error (l : Level) (h : popPc s = .error f) : leaveInterrupt s l = .error f := by
  rw [leaveInterrupt, h]

/-! ## An access that meets an undefined byte -/

theorem memRead_firstMissing {ea m : Word} {w : Width} (hp : PlainAt s ea w) (hm : FirstMissing s ea w m) :
    memRead s ea w = .error (.unwrittenRead m) := by
  obtain ⟨k, hk, haddr, hnone, hdefined⟩ := hm
  exact memRead_undefined hp hk haddr hnone hdefined

/-- The lowest undefined byte of an access depends on the bytes of the access only. -/
theorem firstMissing_congr {ea m : Word} {w : Width}
    (h : ∀ k < w.bytes, t.mem.read ((align ea w).toNat + k) = s.mem.read ((align ea w).toNat + k))
    (hm : FirstMissing s ea w m) : FirstMissing t ea w m := by
  obtain ⟨k, hk, haddr, hnone, hdefined⟩ := hm
  exact ⟨k, hk, haddr, (h k hk).trans hnone, fun j hj => h j (hj.trans hk) ▸ hdefined j hj⟩

/-- The load forms: each is one `loadOp`. -/
theorem finish_loadOp_firstMissing {r : Reg} {ea m : Word} {w : Width} (hp : PlainAt s ea w)
    (hm : FirstMissing s ea w m) : finish (loadOp r ea w s) = .fault (.unwrittenRead m) := by
  rw [loadOp_of_memRead_error (memRead_firstMissing hp hm), finish]

/-! ## The vector word after the push of an entry -/

/-- A store of one word leaves the bytes of every other aligned word as they were. -/
theorem read_otherWord_of_sameMemoryBut {a b : Word} (h : SameMemoryBut s t a .word)
    (hne : align a .word ≠ align b .word) (k : Nat) (hk : k < Width.word.bytes) :
    t.mem.read ((align b .word).toNat + k) = s.mem.read ((align b .word).toNat + k) := by
  have ha := align_mod a .word
  have hb := align_mod b .word
  have hne' : (align a .word).toNat ≠ (align b .word).toNat := fun e => hne (BitVec.eq_of_toNat_eq e)
  simp only [Width.bytes] at ha hb hk
  exact h _ (by simp only [Width.bytes]; omega)

/-- A push leaves the bytes of an aligned word alone unless it stores to that word in plain memory. -/
theorem read_word_of_pushWord {v b : Word} (h : pushWord s v = .ok t)
    (hne : ¬ (PlainAt s (s.reg .r7 - 4#32) .word ∧ align (s.reg .r7 - 4#32) .word = align b .word))
    (k : Nat) (hk : k < Width.word.bytes) :
    t.mem.read ((align b .word).toNat + k) = s.mem.read ((align b .word).toNat + k) := by
  rcases memWrite_cases (pushWord_cases h) with ⟨_, rfl⟩ | ⟨hplain, rfl⟩
  · rfl
  · have hother : align (s.reg .r7 - 4#32) .word ≠ align b .word := fun e => hne ⟨hplain, e⟩
    exact read_otherWord_of_sameMemoryBut (sameMemoryBut_store s _ v .word) hother k hk

theorem enterInterrupt_vector_undefined {m : Word} (hp : ¬ UnmappedAt s (s.reg .r7 - 4#32) .word)
    (hne : ¬ (PlainAt s (s.reg .r7 - 4#32) .word ∧ align (s.reg .r7 - 4#32) .word = 8#32))
    (hv : PlainAt s 8#32 .word) (hm : FirstMissing s 8#32 .word m) :
    enterInterrupt s .int0 = .error (.unwrittenRead m) := by
  obtain ⟨t, hpush, hparams⟩ := pushWord_mapped (s := s.setEnable .int0 false) (v := s.pc) hp
  have hv' : PlainAt t 8#32 .word := by
    rw [PlainAt, hparams]
    exact hv
  have hsame := read_word_of_pushWord (b := 8#32) hpush hne
  exact enterInterrupt_handler_fault hpush (memRead_firstMissing hv' (firstMissing_congr hsame hm))

end

/-- Settles O14: the boundary moves neither the pc nor memory, so the fetch that follows it reads the undefined byte. -/
theorem undefinedFetchFaults : Obligations.UndefinedFetchFaults := by
  intro s m hrun hquiet haligned hp hm
  have hfetchable : s.pc &&& 3#32 = 0#32 ∨ s.params.fetchMode = .mask :=
    haligned.imp_left (and_three_eq_zero_iff s.pc).mpr
  have hread : memRead s.passBoundary s.pc .word = .error (.unwrittenRead m) :=
    memRead_firstMissing (s := s.passBoundary) hp hm
  exact step_fetch_fault hrun hquiet (fetch_of_memRead_error (s := s.passBoundary) hfetchable hread)

/-- Settles O41: each of these reads is one `memRead`, and the push before the read of the vector leaves that word as it
was. -/
theorem undefinedReadsFault : Obligations.UndefinedReadsFault := by
  intro s m
  refine ⟨?_, fun r b i => ?_, fun hp hm => ?_⟩
  · rintro ⟨hrun, hnmi, hline, hgie⟩ hpush hother hplain hm
    rw [step_taken hrun (takenInterrupt_int0 hnmi hline hgie),
      enterInterrupt_vector_undefined (s := s.passBoundary) hpush hother hplain hm, finish]
  · and_intros <;> exact finish_loadOp_firstMissing
  · have hpop := popWord_of_memRead_error (memRead_firstMissing hp hm)
    have hpc := popPc_of_popWord_error hpop
    refine ⟨fun r => exec_pop_of_popWord_error r hpop, fun c hc => ⟨?_, ?_, ?_⟩⟩
    · exact whenHolds_fault (i := .ret c) hc hpc
    · exact whenHolds_fault (i := .reti c) hc (leaveInterrupt_of_popPc_error .int0 hpc)
    · exact whenHolds_fault (i := .retn c) hc (leaveInterrupt_of_popPc_error .nmi hpc)

end Sys2Proof.Machine
end
